-- ==== Sys2Proof/Word.lean ====
section
/-! DEFINITION. The widths the spec names, each under its own name. -/

namespace Sys2Proof

/-- A byte: a Frame register (R20), the operand of SETADDR and of SENDBYTE. -/
abbrev Byte := BitVec 8

/-- A 16-bit fixed-point pattern, the content of a value field of the Frame (R21, R126). -/
abbrev Half := BitVec 16

/-- A 32-bit operand word of SETDATA, read as binary32 (R84). -/
abbrev Single := BitVec 32

/-- A value of the microsecond clock `NOW` or of the deadline `NEXT_EDGE` (R7, R31). -/
abbrev Time := BitVec 64

/-- A command word `CW` (R80). -/
abbrev CommandWord := BitVec 104

/-- A micro-operation label `UOP` (R93). -/
abbrev MicroLabel := BitVec 10

end Sys2Proof
end

