-- ==== Sys2Proof/Config.lean ====
section
/-! DEFINITION. What is fixed for a whole run (R39): the protocol constants (R8), the implementation parameters (R12) with the
values this hardware takes, the constants no build changes (R9), and the values the spec leaves open, as opaque constants. -/

namespace Sys2Proof

/-- `NUMERICS` (R12, R123): whether each arithmetic step of the converter is rounded to binary32. -/
inductive Numerics where
  | binary32Stepwise
  | exactReal
deriving DecidableEq, Repr

/-- `RANGE_POLICY` (R12): what SETDATA does with a scaled value outside signed 16 bits. -/
inductive RangePolicy where
  | wrap
  | fail
deriving DecidableEq, Repr

/-- The four latencies of one SENDBIT, in microseconds (R144): exit of the wait, clock sample after the rising edge, exit of the
delay, gap to the next micro-operation. -/
structure Latency where
  dw : Nat
  ds : Nat
  dd : Nat
  dg : Nat
deriving DecidableEq, Repr

/-- All latencies zero: this hardware (R144). -/
def Latency.zero : Latency := { dw := 0, ds := 0, dd := 0, dg := 0 }

/-- The parameters of the step relation: the constants of R8, in microseconds, bits and bytes, and `NUMERICS`, `RANGE_POLICY` and
`LAT` of R12. -/
structure Config where
  total : Nat
  short : Nat
  nsync : Nat
  length : Nat
  numerics : Numerics
  rangePolicy : RangePolicy
  lat : Latency
deriving DecidableEq, Repr

namespace Config

/-- The reference constants of R8 and the values R12 gives this hardware. -/
def hardware : Config :=
  { total := 2000
    short := 600
    nsync := 9
    length := 8
    numerics := .binary32Stepwise
    rangePolicy := .wrap
    lat := Latency.zero }

/-- `LONG = TOTAL − SHORT` (R8). -/
def long (c : Config) : Nat := c.total - c.short

/-- `EOF_HOLD = 2 × TOTAL` (R9). -/
def eofHold (c : Config) : Nat := 2 * c.total

/-- `N_SLOTS`, the number of bit slots of one transmission (R10). -/
def nSlots (c : Config) : Nat := 1 + c.nsync + 1 + c.length * 9 + 9 + 1

/-- `SCALE` (R9). -/
def scale : Nat := 100

/-- `OFFSET_T` (R9). -/
def offsetT : Nat := 50

/-- `OFFSET_H` (R9). -/
def offsetH : Nat := 0

/-- `OFFSET_V` (R9). -/
def offsetV : Nat := 0

/-- `CHK_BIAS` (R9). -/
def chkBias : Nat := 5

/-- `CHK_MOD` (R9). -/
def chkMod : Nat := 256

/-- `FRAME_RESET` (R12, R35, R212): the eight Frame bytes after hardware reset, arbitrary and fixed for a run.
DESIGN CHOICE (log 1): an opaque constant, so that nothing can be proved of it. Safe. -/
opaque frameReset : Fin 8 → Byte

/-- `SUM` after hardware reset, which the spec leaves unspecified (R35, U2).
DESIGN CHOICE (log 2): an opaque constant. Safe. -/
opaque sumReset : BitVec 11

/-- The `draw(16)` of a `NONFINITE` conversion under `RANGE_POLICY = WRAP` (R127, U3), one value for each draw.
DESIGN CHOICE (log 11): an opaque function of the number of the draw. Safe. -/
opaque freeHalf : Nat → Half

end Config

end Sys2Proof
end

