-- ==== Sys2Proof/Syntax.lean ====
section
/-! DEFINITION. The instructions: the five host commands (R81) and the three micro-operations of the sequencer (R93), one
constructor for each row of the opcode table, and the two forms of an encoded word. -/

namespace Sys2Proof

/-- The data-type tag, "enumeration tag {HTV=0, NONE=1}" (R73). -/
inductive DataType where
  | htv
  | none
deriving DecidableEq, Repr

/-- The operations of the block, under the mnemonics of R81 and R93. -/
inductive Instr where
  /-- INIT (R110). -/
  | init
  /-- SETADDR addr (R111). -/
  | setaddr (addr : Byte)
  /-- SETTYPE kind (R112). -/
  | settype (kind : DataType)
  /-- SETDATA temp, humidity, voltage: three binary32 words (R130). -/
  | setdata (temp humidity voltage : Single)
  /-- SEND (R177). -/
  | send
  /-- SENDBIT v (R145), a micro-operation. -/
  | sendbit (v : Bool)
  /-- SENDBYTE b (R172), a micro-operation. -/
  | sendbyte (b : Byte)
  /-- EOFMARK (R176), a micro-operation. -/
  | eofmark
deriving DecidableEq, Repr

/-- An encoded operation: a 104-bit command word on the port `cmd` (R80), or a 10-bit micro-operation label (R93). -/
inductive Code where
  | command (cw : CommandWord)
  | micro (uop : MicroLabel)
deriving DecidableEq, Repr

end Sys2Proof
end

