-- ==== Sys2Proof/Machine/State.lean ====
section
/-! DEFINITION. The state of one block and of the environment at its ports, as plain data; why a step can stop; the state right
after reset. -/

namespace Sys2Proof.Machine

/-- The Frame: eight registers of eight bits, offsets 0 to 7 (R20, R21, R50). -/
structure Frame where
  /-- `F[0]`, DATATYPE. -/
  f0 : Byte
  /-- `F[1]`, ADDRESS. -/
  f1 : Byte
  /-- `F[2]`, low byte of VAL1 (temperature). -/
  f2 : Byte
  /-- `F[3]`, high byte of VAL1. -/
  f3 : Byte
  /-- `F[4]`, low byte of VAL2 (humidity). -/
  f4 : Byte
  /-- `F[5]`, high byte of VAL2. -/
  f5 : Byte
  /-- `F[6]`, low byte of VAL3 (voltage). -/
  f6 : Byte
  /-- `F[7]`, high byte of VAL3. -/
  f7 : Byte
deriving DecidableEq, Repr

/-- `STEP`, the sub-step within a slot (R26); its codes are `SubStep.code`. -/
inductive SubStep where
  /-- `S_WAIT`: waiting for the deadline. -/
  | wait
  /-- `S_PULSE`: line HIGH, pulse-width delay running. -/
  | pulse
  /-- `S_EOFHOLD`: the `2 × TOTAL` hold of the end-of-frame marker. -/
  | eofHold
  /-- `S_EOFPULSE`: the final bit of the marker. -/
  | eofPulse
deriving DecidableEq, Repr

/-- The output ports whose changes the event log records (R13, R14). -/
inductive Port where
  | line
  | busy
  | errRange
deriving DecidableEq, Repr

/-- One change of an output port: from `time` on the port shows `level` (R14, R143). -/
structure PortEvent where
  time : Time
  port : Port
  level : Bool
deriving DecidableEq, Repr

/-- One pulse on the input port `rst`: asserted at `assertAt`, released at `releaseAt` (R210). -/
structure ResetPulse where
  assertAt : Time
  releaseAt : Time
deriving DecidableEq, Repr

/-- One command word the host presents on `cmd`, from the time `notBefore` on, until it is accepted (R13, R80, R198). The port carries
command words only: "The host cannot issue" a micro-operation (R93). -/
structure Presented where
  notBefore : Time
  word : CommandWord
deriving DecidableEq, Repr

/-- One micro-operation on the bench, entered at the time `notBefore` or later: the label is a name for traces, "not a port or a stored
program" (R93, 92_eei_decisions.md D17). DESIGN CHOICE (log 8). -/
structure Benched where
  notBefore : Time
  label : MicroLabel
deriving DecidableEq, Repr

/-- The state. Plain data: what the block holds (R20 to R35), what its input ports carry now and later, and three fields of
the model's own. -/
structure State where
  /-- `F[0]`..`F[7]` (R20). -/
  frame : Frame
  /-- `NEXT_EDGE` (R31). -/
  nextEdge : Time
  /-- `LINE`, true for HIGH (R32). -/
  line : Bool
  /-- `BUSY` (R29). -/
  busy : Bool
  /-- `STATUS.ERR_RANGE` (R30). -/
  errRange : Bool
  /-- `SLOT` (R26). -/
  slot : BitVec 7
  /-- `STEP` (R26). -/
  subStep : SubStep
  /-- `SUM` (R33). -/
  sum : BitVec 11
  /-- `NOW`, the value on the input port `now` (R7, R13; log 3). -/
  now : Time
  /-- The level of the input port `rst` (R13; log 5). -/
  rst : Bool
  /-- The pulses on `rst` not yet over, the next one first (log 5). -/
  resets : List ResetPulse
  /-- What the host presents, the next word first (R198, R200; log 4). -/
  host : List Presented
  /-- The micro-operations a bench runs alone, outside any SEND, the next one first. No port reaches it and no step adds to it. The
  model's own (R93; log 8). -/
  bench : List Benched
  /-- How many free 16-bit values have been drawn. The model's own (R127; log 11). -/
  draws : Nat
  /-- The changes of the output ports so far, the latest first. The model's own (R14; log 15). -/
  log : List PortEvent
deriving DecidableEq, Repr

/-- Why the machine would stop with a fault: it never does. "No operation raises any exception, fault or error" (R190), and the
`RangeFailure` of `RANGE_POLICY = FAIL` records a flag and goes on (R194). Safe: there is nothing to raise. -/
inductive Fault where
deriving DecidableEq, Repr

/-- Why the model refuses to go on. -/
inductive Refusal where
  /-- Raised by an arm of `exec` for an instruction that has no meaning yet: there is none. Safe. -/
  | notModelled (mnemonic : String)
  /-- Raised by `step` for a label on the bench that no micro-operation has: "never produced" by the sequencer (R93, U22; log 10).
  Safe: the spec gives such a label no effect. -/
  | reservedLabel (uop : MicroLabel)
deriving DecidableEq, Repr

/-- The Frame after hardware reset: `FRAME_RESET` (R35, R212; log 1). -/
def Frame.reset : Frame :=
  { f0 := Config.frameReset 0
    f1 := Config.frameReset 1
    f2 := Config.frameReset 2
    f3 := Config.frameReset 3
    f4 := Config.frameReset 4
    f5 := Config.frameReset 5
    f6 := Config.frameReset 6
    f7 := Config.frameReset 7 }

/-- Right after hardware reset (R35, R210): idle, the line LOW, no deadline pending, the host presenting nothing yet. -/
def State.reset : State :=
  { frame := Frame.reset
    nextEdge := 0
    line := false
    busy := false
    errRange := false
    slot := 0
    subStep := .wait
    sum := Config.sumReset
    now := 0
    rst := false
    resets := []
    host := []
    bench := []
    draws := 0
    log := [] }

end Sys2Proof.Machine
end

