-- ==== Sys2Proof/Machine/Flags.lean ====
section
/-! DEFINITION. The two flags and the ports: how BUSY and STATUS.ERR_RANGE are read and written (R29, R30), what the output ports
show (R13), the cause codes (R192), and the codes of the sequencer's sub-steps and phases (R25, R26). -/

namespace Sys2Proof.Machine

/-- The log with a change of a port in front, or the same log where the port already shows that level: writing the level a port
already has is not observable (R14, D23). -/
def logChange (port : Port) (before after : Bool) (time : Time) (log : List PortEvent) : List PortEvent :=
  if before = after then log else { time := time, port := port, level := after } :: log

/-- `BUSY <- b` (R29). -/
def State.setBusy (b : Bool) (s : State) : State :=
  { s with busy := b, log := logChange .busy s.busy b s.now s.log }

/-- `STATUS.ERR_RANGE` as it reads: hard-wired 0 under `RANGE_POLICY = WRAP` (R30; log 21). -/
def State.errRangeReads (c : Config) (s : State) : Bool :=
  match c.rangePolicy with
  | .wrap => false
  | .fail => s.errRange

/-- `STATUS.ERR_RANGE <- b`; under `WRAP` the flag is hard-wired 0, so the write stores 0 and changes no port (R30; log 21). -/
def State.setErrRange (c : Config) (b : Bool) (s : State) : State :=
  { s with
    errRange :=
      match c.rangePolicy with
      | .wrap => false
      | .fail => b
    log :=
      match c.rangePolicy with
      | .wrap => s.log
      | .fail => logChange .errRange s.errRange b s.now s.log }

/-! ### Ports (R13) -/

/-- `cmd_ready`: "equals `not BUSY`". -/
def State.cmdReady (s : State) : Bool := !s.busy

/-- `cmd_valid`: the host presents a word now. -/
def State.cmdValid (s : State) : Bool :=
  match s.host with
  | [] => false
  | p :: _ => decide (p.notBefore ≤ s.now)

/-- `line`: "equals state bit `LINE`". -/
def State.linePort (s : State) : Bool := s.line

/-- `busy`: "equals state bit `BUSY`". -/
def State.busyPort (s : State) : Bool := s.busy

/-- `err_range`: "equals state bit `STATUS.ERR_RANGE`". -/
def State.errRangePort (c : Config) (s : State) : Bool := s.errRangeReads c

/-! ### Causes (R192) -/

/-- The causes of R192. -/
inductive Cause where
  | none
  | rangeFailure
deriving DecidableEq, Repr

/-- The cause codes of R192. -/
def Cause.code : Cause → Nat
  | .none => 0
  | .rangeFailure => 1

/-- What is recorded: `RangeFailure` exactly while `STATUS.ERR_RANGE = 1` (R192). -/
def State.cause (c : Config) (s : State) : Cause := if s.errRangeReads c then .rangeFailure else .none

/-! ### Codes (R25, R26) -/

/-- The codes of `STEP` (R26). -/
def SubStep.code : SubStep → BitVec 2
  | .wait => 0
  | .pulse => 1
  | .eofHold => 2
  | .eofPulse => 3

/-- The phases of a transmission (R25). -/
inductive Phase where
  | idle
  | sync
  | start
  | data
  | checksum
  | eof
deriving DecidableEq, Repr

/-- The codes of `PHASE`; 6 and 7 are never taken (R25). -/
def Phase.code : Phase → BitVec 3
  | .idle => 0
  | .sync => 1
  | .start => 2
  | .data => 3
  | .checksum => 4
  | .eof => 5

end Sys2Proof.Machine
end

