-- ==== Sys2Proof/Decode.lean ====
section
/-! DEFINITION. The decoder, total on every word and on every list of bytes, rejecting by name (R80 to R87, R93), and after it
the encoder, written from the same tables. -/

namespace Sys2Proof

/-- Why a word is not an operation. -/
inductive DecodeError where
  /-- `OP` is `0x05` to `0xFF` (R86). -/
  | reservedOpcode (op : Byte)
  /-- SETTYPE with `CW[7:1]` not 0 (R87). -/
  | reservedKind (low : Byte)
  /-- A label of R93 that no micro-operation has (U22). -/
  | reservedLabel (uop : MicroLabel)
  /-- Not the 13 bytes of a command word (R80). -/
  | wrongLength (bytes : Nat)
deriving DecidableEq, Repr

/-! The fields of R80 and R93. -/

/-- `OP = CW[103:96]`. -/
def opField (cw : CommandWord) : Byte := cw.extractLsb' 96 8

/-- `A = CW[95:64]`. -/
def aField (cw : CommandWord) : Single := cw.extractLsb' 64 32

/-- `B = CW[63:32]`. -/
def bField (cw : CommandWord) : Single := cw.extractLsb' 32 32

/-- `C = CW[31:0]`. -/
def cField (cw : CommandWord) : Single := cw.extractLsb' 0 32

/-- `CW[7:0]`, the operand byte of SETADDR and SETTYPE (R81). -/
def lowByte (cw : CommandWord) : Byte := cw.extractLsb' 0 8

/-- `UOP[9:8]`. -/
def selField (uop : MicroLabel) : BitVec 2 := uop.extractLsb' 8 2

/-- `UOP[7:0]`. -/
def operandField (uop : MicroLabel) : Byte := uop.extractLsb' 0 8

/-- `kind = CW[0]` with `CW[7:1] = 0`; any other byte names no member of {HTV, NONE} (R83, R87). -/
def decodeKind (low : Byte) : Except DecodeError Instr :=
  match low.toNat with
  | 0 => .ok (.settype .htv)
  | 1 => .ok (.settype .none)
  | _ => .error (.reservedKind low)

/-- A command word (R80, R81, R83); operand bits a command does not use are ignored (R82). -/
def decodeCommand (cw : CommandWord) : Except DecodeError Instr :=
  match (opField cw).toNat with
  | 0 => .ok .init
  | 1 => .ok (.setaddr (lowByte cw))
  | 2 => decodeKind (lowByte cw)
  | 3 => .ok (.setdata (aField cw) (bField cw) (cField cw))
  | 4 => .ok .send
  | _ => .error (.reservedOpcode (opField cw))

/-- A micro-operation label (R93). -/
def decodeMicro (uop : MicroLabel) : Except DecodeError Instr :=
  match (selField uop).toNat, (operandField uop).toNat with
  | 0, 0 => .ok (.sendbit false)
  | 0, 1 => .ok (.sendbit true)
  | 1, _ => .ok (.sendbyte (operandField uop))
  | 2, 0 => .ok .eofmark
  | _, _ => .error (.reservedLabel uop)

/-- The decoder. -/
def decode : Code → Except DecodeError Instr
  | .command cw => decodeCommand cw
  | .micro uop => decodeMicro uop

/-- A command word from its rendering as 13 bytes, `OP` first, each operand most significant byte first (R80, D30). -/
def commandOfBytes (bytes : List Byte) : CommandWord :=
  bytes.foldl (fun acc b => acc <<< 8 ||| b.setWidth 104) 0

/-- The decoder on bytes: 13 of them are a command word, any other number is refused. -/
def decodeBytes (bytes : List Byte) : Except DecodeError Instr :=
  if bytes.length = 13 then decodeCommand (commandOfBytes bytes) else .error (.wrongLength bytes.length)

/-! The encoder. -/

/-- The tag's raw value: HTV is 0, NONE is 1 (R73, R83). -/
def DataType.raw : DataType → Byte
  | .htv => 0x00#8
  | .none => 0x01#8

/-- The four fields of R80 in one word. -/
def commandWord (op : Byte) (a b c : Single) : CommandWord := op ++ a ++ b ++ c

/-- The selector and the operand of R93 in one label. -/
def microLabel (sel : BitVec 2) (operand : Byte) : MicroLabel := sel ++ operand

/-- The words of an operation, the bits a command does not use written as 0 (R82, R91). -/
def encode : Instr → Code
  | .init => .command (commandWord 0x00#8 0 0 0)
  | .setaddr addr => .command (commandWord 0x01#8 0 0 (addr.setWidth 32))
  | .settype kind => .command (commandWord 0x02#8 0 0 (kind.raw.setWidth 32))
  | .setdata t h v => .command (commandWord 0x03#8 t h v)
  | .send => .command (commandWord 0x04#8 0 0 0)
  | .sendbit v => .micro (microLabel 0#2 (if v then 1#8 else 0#8))
  | .sendbyte b => .micro (microLabel 1#2 b)
  | .eofmark => .micro (microLabel 2#2 0#8)

/-- The 13 bytes of a command word, `OP` first (R80, D30). -/
def bytesOfCommand (cw : CommandWord) : List Byte :=
  (List.range 13).map fun i => cw.extractLsb' (8 * (12 - i)) 8

/-- The word of a row of the opcode table, from its bits as the table numbers them: a row of at most 16 bits is a label, a longer
one a command word (log 22). -/
def tableCode (nbits w : Nat) : Code :=
  if nbits ≤ 16 then .micro (BitVec.ofNat 10 w) else .command (BitVec.ofNat 104 w)

/-- The instruction the decoder reads from a row's word; a label has no bit above bit 9 (R93), a command word none above bit 103. -/
def decodeTableWord (nbits w : Nat) : Option Instr :=
  if w < (if nbits ≤ 16 then 2 ^ 10 else 2 ^ 104) then (decode (tableCode nbits w)).toOption else none

end Sys2Proof
end

