-- ==== Sys2Proof/Machine/Operands.lean ====
section
/-! DEFINITION. The operands of the operations: the Frame as registers and as an address space (R20, R50 to R56, R85), binary32
words (R84), and the bits of a byte on the wire (R76). -/

namespace Sys2Proof.Machine

/-! ### The Frame -/

/-- `x[i]`, the read of Frame byte `F[i]` (00_scope.md section 8). -/
def Frame.get (f : Frame) (i : Fin 8) : Byte :=
  match i.val with
  | 0 => f.f0
  | 1 => f.f1
  | 2 => f.f2
  | 3 => f.f3
  | 4 => f.f4
  | 5 => f.f5
  | 6 => f.f6
  | _ => f.f7

/-- `x[i] <- v`, the write of Frame byte `F[i]`. -/
def Frame.set (f : Frame) (i : Fin 8) (v : Byte) : Frame :=
  match i.val with
  | 0 => { f with f0 := v }
  | 1 => { f with f1 := v }
  | 2 => { f with f2 := v }
  | 3 => { f with f3 := v }
  | 4 => { f with f4 := v }
  | 5 => { f with f5 := v }
  | 6 => { f with f6 := v }
  | _ => { f with f7 := v }

/-- `MemWrite(off, 2, v)`: the low byte at offset `off`, the high byte at the next one (R53, R85). -/
def Frame.setHalf (f : Frame) (off : Fin 8) (v : Half) : Frame :=
  (f.set off (v.extractLsb' 0 8)).set (off + 1) (v.extractLsb' 8 8)

/-- `MemRead(off, 2) = F[off+1] ∥ F[off]` (00_scope.md section 8). -/
def Frame.getHalf (f : Frame) (off : Fin 8) : Half := f.get (off + 1) ++ f.get off

/-- `VAL1`, the temperature field (R21). -/
def Frame.val1 (f : Frame) : Half := f.getHalf 2

/-- `VAL2`, the humidity field (R21). -/
def Frame.val2 (f : Frame) : Half := f.getHalf 4

/-- `VAL3`, the voltage field (R21). -/
def Frame.val3 (f : Frame) : Half := f.getHalf 6

/-- The eight bytes in offset order, the order of transmission (R23, R54). -/
def Frame.bytes (f : Frame) : List Byte := [f.f0, f.f1, f.f2, f.f3, f.f4, f.f5, f.f6, f.f7]

/-- The Frame as the block's address space: every location it has, in rising order (R50, R52; log 23). -/
def State.memory (s : State) : List Host.Cell :=
  [(0, s.frame.f0), (1, s.frame.f1), (2, s.frame.f2), (3, s.frame.f3), (4, s.frame.f4), (5, s.frame.f5), (6, s.frame.f6),
    (7, s.frame.f7)]

/-- The canonical form of an address space of eight locations: the addresses 0 to 7, rising, each listed once. An address that is
not listed does not exist, so no entry can equal what it reads as. -/
def Memory.wf (m : List Host.Cell) : Bool := m.map Prod.fst == [0, 1, 2, 3, 4, 5, 6, 7]

/-- The read of the byte at an address; none where the address does not exist (R50). -/
def State.readByte (s : State) (addr : Nat) : Option Byte := s.memory.lookup addr

/-! ### binary32 words -/

/-- The value of a binary32 word (R84). A finite value is a whole number of units of 2⁻¹⁴⁹, the spacing of the subnormal grid, of
which every finite binary32 value is a multiple. DEDUCED, safe (log 20). -/
inductive Binary32 where
  | finite (units : Int)
  | infinite (negative : Bool)
  | nan
deriving DecidableEq, Repr

/-- How many units of 2⁻¹⁴⁹ make 1. -/
def unitsPerOne : Nat := 2 ^ 149

/-- `s = w[31]` (R84). -/
def signBit (w : Single) : Bool := w.getLsbD 31

/-- `e = w[30:23]` (R84). -/
def exponentField (w : Single) : Nat := (w.extractLsb' 23 8).toNat

/-- `m = w[22:0]` (R84). -/
def fractionField (w : Single) : Nat := (w.extractLsb' 0 23).toNat

/-- A magnitude with the sign bit applied. -/
def applySign (negative : Bool) (magnitude : Nat) : Int := if negative then -(magnitude : Int) else magnitude

/-- `f32(w)` (R84): `2^(e−127) × (1 + m / 2^23)` is `(2^23 + m) × 2^(e−1)` units, and a subnormal is `m` units. -/
def f32 (w : Single) : Binary32 :=
  if exponentField w = 255 then
    if fractionField w = 0 then .infinite (signBit w) else .nan
  else if exponentField w = 0 then .finite (applySign (signBit w) (fractionField w))
  else .finite (applySign (signBit w) ((2 ^ 23 + fractionField w) * 2 ^ (exponentField w - 1)))

/-! ### The bits of a byte on the wire -/

/-- `B(b)`: the eight bits, least significant first, then the stop bit (R76, R77). -/
def wireBits (b : Byte) : List Bool :=
  [b.getLsbD 0, b.getLsbD 1, b.getLsbD 2, b.getLsbD 3, b.getLsbD 4, b.getLsbD 5, b.getLsbD 6, b.getLsbD 7, true]

end Sys2Proof.Machine
end

