-- ==== Sys2Proof/Machine/Ops.lean ====
section
/-! DEFINITION. The named operations: time (R141, R142), the line (R143), the Frame writes (R85, R130), draws (R127), hardware
reset (R210, R211), the range failure and its clearing (R191 to R195), and the acceptance of a command (R13, R198). -/

namespace Sys2Proof.Machine

/-! ### Time -/

/-- A number of microseconds as a difference of `NOW`, modulo 2^64 (R150). -/
def us (n : Nat) : Time := BitVec.ofNat 64 n

/-- `max(a, b)` of two times, by the plain unsigned comparison of R150. -/
def laterOf (a b : Time) : Time := if a ≤ b then b else a

/-- `WaitUntil(T)`: completes at `max(t, T)` (R141). -/
def State.waitUntil (t : Time) (s : State) : State := { s with now := laterOf s.now t }

/-- `Delay(D)`: completes `D` microseconds after its entry (R142). -/
def State.delay (d : Nat) (s : State) : State := { s with now := s.now + us d }

/-! ### The line and the deadline -/

/-- `SetLine(b)` at the current time (R143): an edge is logged only where the level changes. -/
def State.setLine (b : Bool) (s : State) : State :=
  { s with line := b, log := logChange .line s.line b s.now s.log }

/-- `NEXT_EDGE <- v` (R31). -/
def State.setNextEdge (v : Time) (s : State) : State := { s with nextEdge := v }

/-- `NEXT_EDGE <- now + TOTAL`, modulo 2^64: step 3 of SENDBIT (R145, R150). -/
def State.schedule (c : Config) (s : State) : State := s.setNextEdge (s.now + us c.total)

/-! ### The Frame, the sum, the sequencer position -/

/-- `x[i] <- v` (R20). -/
def State.setByte (i : Fin 8) (v : Byte) (s : State) : State := { s with frame := s.frame.set i v }

/-- `MemWrite(2, 2, p1); MemWrite(4, 2, p2); MemWrite(6, 2, p3)`, the six bytes together (R57, R130). -/
def State.setValues (p1 p2 p3 : Half) (s : State) : State :=
  { s with frame := ((s.frame.setHalf 2 p1).setHalf 4 p2).setHalf 6 p3 }

/-- All eight Frame bytes at once, which only reset does (R35). -/
def State.setFrame (f : Frame) (s : State) : State := { s with frame := f }

/-- `SUM <- v` (R33). -/
def State.setSum (v : BitVec 11) (s : State) : State := { s with sum := v }

/-- `SLOT <- k; STEP <- t` (R26, R28). -/
def State.setPosition (k : BitVec 7) (t : SubStep) (s : State) : State := { s with slot := k, subStep := t }

/-! ### Draws -/

/-- How many values have been drawn, after `n` more of them (R127; log 11). -/
def State.addDraws (n : Nat) (s : State) : State := { s with draws := s.draws + n }

/-! ### Hardware reset -/

/-- What `rst` forces (R210, R35), at the current time: the line LOW (a falling edge if it was HIGH, R211), the deadline 0, the
sequencer idle, `ERR_RANGE` 0, the Frame `FRAME_RESET`, `SUM` unspecified. `NOW` and what the host presents are not affected. -/
def State.resetBlock (c : Config) (s : State) : State :=
  ((((((s.setLine false).setNextEdge 0).setBusy false).setErrRange c false).setPosition 0 .wait).setSum Config.sumReset).setFrame
    Frame.reset

/-! ### The range failure -/

/-- Taking the one exception, `RangeFailure` (R191, R194): `STATUS.ERR_RANGE <- 1` and nothing else; control goes nowhere. -/
def State.takeRangeFailure (c : Config) (s : State) : State := s.setErrRange c true

/-- What stands in place of a return from it (R195): a SETDATA that succeeds, INIT, or reset clears the flag. -/
def State.clearRangeFailure (c : Config) (s : State) : State := s.setErrRange c false

/-! ### Acceptance -/

/-- Whether the block accepts a command: not while a SEND runs, and not while `rst` is asserted (R198). -/
def State.accepts (s : State) : Bool := !s.busy && !s.rst

/-- The effect `f` of a command, if the block accepts it; a command that is not accepted has no effect: it stays with the host
(R198; log 16). -/
def acceptCommand (s : State) (f : State → State) : Host.Outcome State Fault Refusal :=
  if s.accepts then .next (f s) else .next s

/-- The effect `f` of a micro-operation; while `rst` is asserted the block is held in its reset state and runs none (R210; log 16). -/
def enterMicro (s : State) (f : State → State) : Host.Outcome State Fault Refusal :=
  if s.rst then .next s else .next (f s)

end Sys2Proof.Machine
end

