-- ==== Sys2Proof/Machine/Converter.lean ====
section
/-! DEFINITION. The floating-point-to-fixed-point converter and SETDATA (41_converter.md, R120 to R133). -/

namespace Sys2Proof.Machine

/-! ### Rounding to binary32 -/

/-- A magnitude in units of 2⁻¹⁴⁹, rounded to 24 significant bits, to the nearest, ties to the even significand (R122). Below 2²⁴
units (the subnormals and the first normal binade) every whole number of units is a binary32 value: no flush to zero. -/
def roundMagnitude (a : Nat) : Nat :=
  if a < 2 ^ 24 then a
  else
    let spacing := 2 ^ (a.log2 - 23)
    let below := a / spacing
    let rest := a % spacing
    if spacing < 2 * rest ∨ (2 * rest = spacing ∧ below % 2 = 1) then (below + 1) * spacing else below * spacing

/-- 2^128 in units: a rounded magnitude that reaches it overflows to an infinity (R122). -/
def overflowUnits : Nat := 2 ^ 277

/-- `RN(x)` (R122), `x` in units of 2⁻¹⁴⁹. -/
def roundNearest (x : Int) : Binary32 :=
  if overflowUnits ≤ roundMagnitude x.natAbs then .infinite (decide (x < 0))
  else .finite (applySign (decide (x < 0)) (roundMagnitude x.natAbs))

/-! ### The conversion -/

/-- What `FX` answers: an integer, or the mark `NONFINITE` (R124). -/
inductive Conversion where
  | integer (i : Int)
  | nonfinite
deriving DecidableEq, Repr

/-- The next step of the conversion on a finite value; NaN and the infinities end it (R124, R129 d). -/
def Binary32.onFinite (v : Binary32) (next : Int → Conversion) : Conversion :=
  match v with
  | .finite x => next x
  | .infinite _ => .nonfinite
  | .nan => .nonfinite

/-- `trunc` of a value in units: toward zero (00_scope.md section 7). -/
def truncUnits (x : Int) : Int := x.tdiv unitsPerOne

/-- `FX(w, o)` (R124): add the offset, multiply by 100, add 0.5, truncate toward zero. Under `BINARY32_STEPWISE` each of the three
results is rounded by `RN` before the next step; under `EXACT_REAL` none is (R123). -/
def fx (numerics : Numerics) (w : Single) (offset : Nat) : Conversion :=
  match numerics with
  | .binary32Stepwise =>
    (f32 w).onFinite fun v =>
      (roundNearest (v + offset * unitsPerOne)).onFinite fun s1 =>
        (roundNearest (s1 * Config.scale)).onFinite fun s2 =>
          (roundNearest (s2 + unitsPerOne / 2)).onFinite fun s3 => .integer (truncUnits s3)
  | .exactReal =>
    (f32 w).onFinite fun v => .integer (truncUnits ((v + offset * unitsPerOne) * Config.scale + unitsPerOne / 2))

/-- `u16(i) = i mod 65536` (R126). -/
def u16 (i : Int) : Half := BitVec.ofInt 16 i

/-- `s16(p)`: a pattern read as two's complement (00_scope.md section 7). -/
def s16 (p : Half) : Int := p.toInt

/-- The quantity a pattern stands for, "inverse scaling" (R71); the block itself never decodes. -/
def inverseScale (p : Half) (offset : Nat) : ℚ := (s16 p : ℚ) / Config.scale - offset

/-- The pattern stored for a conversion (R126, R130), and how many values it drew: for `NONFINITE` the pattern is free, the
`n`-th draw (R127). -/
def storedPattern (r : Conversion) (n : Nat) : Half × Nat :=
  match r with
  | .integer i => (u16 i, 0)
  | .nonfinite => (Config.freeHalf n, 1)

/-- `ok(r)` of R131: an integer that signed 16 bits hold. -/
def Conversion.inRange (r : Conversion) : Bool :=
  match r with
  | .integer i => decide (-32768 ≤ i) && decide (i ≤ 32767)
  | .nonfinite => false

/-- The three writes of SETDATA under `RANGE_POLICY = WRAP` (R130), each `NONFINITE` field with a fresh draw. -/
def setDataWrap (r1 r2 r3 : Conversion) (s : State) : State :=
  let (p1, n1) := storedPattern r1 s.draws
  let (p2, n2) := storedPattern r2 (s.draws + n1)
  let (p3, n3) := storedPattern r3 (s.draws + n1 + n2)
  (s.setValues p1 p2 p3).addDraws (n1 + n2 + n3)

/-- SETDATA under `RANGE_POLICY = FAIL` (R131): all three values are checked before any is written. -/
def setDataFail (c : Config) (r1 r2 r3 : Conversion) (s : State) : State :=
  match r1, r2, r3 with
  | .integer i1, .integer i2, .integer i3 =>
    if (Conversion.integer i1).inRange && (Conversion.integer i2).inRange && (Conversion.integer i3).inRange then
      (s.setValues (u16 i1) (u16 i2) (u16 i3)).clearRangeFailure c
    else s.takeRangeFailure c
  | _, _, _ => s.takeRangeFailure c

/-- SETDATA (R130, R131), in no time (R113). -/
def setData (c : Config) (temp humidity voltage : Single) (s : State) : State :=
  let r1 := fx c.numerics temp Config.offsetT
  let r2 := fx c.numerics humidity Config.offsetH
  let r3 := fx c.numerics voltage Config.offsetV
  match c.rangePolicy with
  | .wrap => setDataWrap r1 r2 r3 s
  | .fail => setDataFail c r1 r2 r3 s

/-- SETDATA temp, humidity, voltage (R130). -/
def execSetdata (temp humidity voltage : Single) (s : State) : Host.Outcome State Fault Refusal :=
  acceptCommand s (setData Config.hardware temp humidity voltage)

end Sys2Proof.Machine
end

