-- ==== Sys2Proof/Machine/FrameSetup.lean ====
section
/-! DEFINITION. The commands INIT, SETADDR and SETTYPE (40_frame_setup.md, R110 to R113). -/

namespace Sys2Proof.Machine

/-- The effect of INIT (R110): the line LOW, no deadline, `ERR_RANGE` cleared; nothing else. -/
def initBlock (c : Config) (s : State) : State := ((s.setLine false).setNextEdge 0).clearRangeFailure c

/-- INIT (R110). -/
def execInit (s : State) : Host.Outcome State Fault Refusal := acceptCommand s (initBlock Config.hardware)

/-- SETADDR addr (R111): "stores `addr` verbatim into Frame.ADDRESS"; no range check. -/
def execSetaddr (addr : Byte) (s : State) : Host.Outcome State Fault Refusal := acceptCommand s (State.setByte 1 addr)

/-- SETTYPE kind (R112): "stores the enumeration's raw value into Frame.DATATYPE". -/
def execSettype (kind : DataType) (s : State) : Host.Outcome State Fault Refusal := acceptCommand s (State.setByte 0 kind.raw)

end Sys2Proof.Machine
end

