-- ==== Sys2Proof/Machine/BitClock.lean ====
section
/-! DEFINITION. The bit-clock timer and SENDBIT (42_bitclock.md, R140 to R153). -/

namespace Sys2Proof.Machine

/-- `W = SHORT if v = 1 else LONG` (R145). -/
def pulseWidth (c : Config) (v : Bool) : Nat := if v then c.short else c.long

/-- Steps 1 to 3 of SENDBIT (R145, with the latencies of R152): wait for the deadline, the rising edge, the next deadline counted
from the clock sample. -/
def openPulse (c : Config) (l : Latency) (s : State) : State :=
  ((((s.waitUntil s.nextEdge).delay l.dw).setLine true).delay l.ds).schedule c

/-- Steps 4 and 5 of SENDBIT (R145, R152): the pulse-width delay and the falling edge. -/
def closePulse (c : Config) (l : Latency) (v : Bool) (s : State) : State :=
  ((s.delay (pulseWidth c v)).delay l.dd).setLine false

/-- SENDBIT with the latencies of this one bit (R152); with all of them zero it is R145. -/
def sendBitWith (c : Config) (l : Latency) (v : Bool) (s : State) : State := closePulse c l v (openPulse c l s)

/-- SENDBIT in a block of configuration `c` (R145). -/
def sendBit (c : Config) (v : Bool) (s : State) : State := sendBitWith c c.lat v s

/-- The gap between one micro-operation's exit and the next one's entry (R144, R152). -/
def microGap (c : Config) (s : State) : State := s.delay c.lat.dg

/-- SENDBIT v (R145). -/
def execSendbit (v : Bool) (s : State) : Host.Outcome State Fault Refusal := enterMicro s (sendBit Config.hardware v)

end Sys2Proof.Machine
end

