-- ==== Sys2Proof/Machine/Checksum.lean ====
section
/-! DEFINITION. The frame checksum calculator (43_checksum.md, R160 to R165). -/

namespace Sys2Proof.Machine

/-- The sum of a list of bytes, each as its unsigned value, with unbounded width (R160, R161). -/
def byteSum (bytes : List Byte) : Nat := (bytes.map BitVec.toNat).sum

/-- `CHK(F) = (F[0] + ... + F[7] + 5) mod 256` (R160). -/
def frameChecksum (f : Frame) : Byte := BitVec.ofNat 8 ((byteSum f.bytes + Config.chkBias) % Config.chkMod)

/-- `SUM <- SUM + zext(b)` (R162). -/
def State.accumulate (b : Byte) (s : State) : State := s.setSum (s.sum + b.setWidth 11)

/-- `c = (SUM + 5) mod 256`, the low eight bits of `SUM + 5` (R163). -/
def formChecksum (sum : BitVec 11) : Byte := BitVec.ofNat 8 ((sum.toNat + Config.chkBias) % Config.chkMod)

end Sys2Proof.Machine
end

