-- ==== Sys2Proof/Machine/Transmitter.lean ====
section
/-! DEFINITION. The frame transmitter (44_transmitter.md, R170 to R183): SENDBYTE, EOFMARK, the slot table (R27, R77), the
sequencer's sub-steps (R26, R28) and SEND. -/

namespace Sys2Proof.Machine

/-! ### SENDBYTE and EOFMARK -/

/-- SENDBITs in a row, each entered when the gap after the one before is over (R144, R172). -/
def sendBits (c : Config) : List Bool → State → State
  | [], s => s
  | [v], s => sendBit c v s
  | v :: v' :: vs, s => sendBits c (v' :: vs) (microGap c (sendBit c v s))

/-- SENDBYTE: the eight bits, least significant first, then the stop bit (R172). It does not touch `SUM`. -/
def sendByte (c : Config) (b : Byte) (s : State) : State := sendBits c (wireBits b) s

/-- The marker from its rising edge on: steps 1 to 3 as those of a SENDBIT (R176; log 13). -/
def openMarker (c : Config) (s : State) : State := openPulse c c.lat s

/-- The hold of the marker, `2 × TOTAL` from the rising edge (R176). -/
def holdMarker (c : Config) (s : State) : State := s.delay c.eofHold

/-- The end of the marker: one final logical 1 "via the normal `sendBit` path, then ensure the line is LOW" (R176). -/
def closeMarker (c : Config) (s : State) : State := (sendBit c true s).setLine false

/-- EOFMARK (R176). -/
def eofMark (c : Config) (s : State) : State := closeMarker c (holdMarker c (openMarker c s))

/-- SENDBYTE b (R172). -/
def execSendbyte (b : Byte) (s : State) : Host.Outcome State Fault Refusal := enterMicro s (sendByte Config.hardware b)

/-- EOFMARK (R176). -/
def execEofmark (s : State) : Host.Outcome State Fault Refusal := enterMicro s (eofMark Config.hardware)

/-! ### The slots of a transmission -/

/-- What a slot carries (R77); a data slot names its byte and the bit position in it, a checksum slot the bit position (R27). -/
inductive SlotKind where
  | syncLead
  | syncZero
  | start
  | data (idx : Fin 8) (bitPos : Fin 9)
  | checksum (bitPos : Fin 9)
  | marker
deriving DecidableEq, Repr

/-- `D0`, the first data slot (R27). -/
def firstData (c : Config) : Nat := c.nsync + 2

/-- `C0`, the first checksum slot (R27). -/
def firstChecksum (c : Config) : Nat := firstData c + 9 * c.length

/-- The slot table (R27, R77). A slot past the last one is never reached (R28; log 18). -/
def slotKind (c : Config) (k : Nat) : SlotKind :=
  if k = 0 then .syncLead
  else if k ≤ c.nsync then .syncZero
  else if k = c.nsync + 1 then .start
  else if k < firstChecksum c then .data (Fin.ofNat 8 ((k - firstData c) / 9)) (Fin.ofNat 9 ((k - firstData c) % 9))
  else if k < firstChecksum c + 9 then .checksum (Fin.ofNat 9 (k - firstChecksum c))
  else .marker

/-- `PHASE` as a function of `BUSY` and `SLOT` (R27). -/
def State.phase (c : Config) (s : State) : Phase :=
  if s.busy then
    match slotKind c s.slot.toNat with
    | .syncLead => .sync
    | .syncZero => .sync
    | .start => .start
    | .data _ _ => .data
    | .checksum _ => .checksum
    | .marker => .eof
  else .idle

/-- The logical bit a slot carries (R77): bit position 8 is the stop bit (R76); the marker ends with a logical 1 (R176). -/
def slotBit (c : Config) (s : State) : Bool :=
  match slotKind c s.slot.toNat with
  | .syncLead => true
  | .syncZero => false
  | .start => true
  | .data idx bitPos => (wireBits (s.frame.get idx)).getD bitPos true
  | .checksum bitPos => (wireBits (formChecksum s.sum)).getD bitPos true
  | .marker => true

/-! ### The sequencer -/

/-- At the entry of a data byte's SENDBYTE, that is of its first slot, the byte is added to `SUM` (R162, R173; log 7). -/
def enterSlot (c : Config) (s : State) : State :=
  match slotKind c s.slot.toNat with
  | .data idx bitPos => if bitPos = 0 then s.accumulate (s.frame.get idx) else s
  | _ => s

/-- The sub-step after the rising edge: the marker holds, every other slot runs its pulse (R26). -/
def afterRise (c : Config) (s : State) : SubStep :=
  match slotKind c s.slot.toNat with
  | .marker => .eofHold
  | _ => .pulse

/-- The exit of SEND: `BUSY <- 0; SLOT <- 0; STEP <- 0` (R28, R177). -/
def finishSend (s : State) : State := (s.setBusy false).setPosition 0 .wait

/-- Completion of a slot: the next one, or after the last the exit of SEND (R28). -/
def completeSlot (c : Config) (s : State) : State :=
  if s.slot.toNat + 1 < c.nSlots then microGap c (s.setPosition (s.slot + 1) .wait) else finishSend s

/-- One sub-step of the sequencer, from its entry to its end (R26, R28, R177; log 6). -/
def sequencerStep (c : Config) (s : State) : State :=
  match s.subStep with
  | .wait => (openPulse c c.lat (enterSlot c s)).setPosition s.slot (afterRise c s)
  | .pulse => completeSlot c (closePulse c c.lat (slotBit c s) s)
  | .eofHold => (holdMarker c s).setPosition s.slot .eofPulse
  | .eofPulse => completeSlot c (closeMarker c s)

/-- Whether a pulse on `rst` is asserted at or before a time: then reset wins (R198). -/
def State.resetDue (s : State) (t : Time) : Bool :=
  match s.resets with
  | [] => false
  | p :: _ => decide (p.assertAt ≤ t)

/-- The sequencer from one position on, for at most `n` sub-steps: it stops at the exit of SEND, or before the sub-step that a reset
cuts short (R211; log 6). DESIGN CHOICE for nonzero latencies (R144, R152; log 6): a reset that falls in `ds` after a rising edge, or in
`dg` after a falling edge, cuts the whole sub-step, so that the edge already made at `t_H` or `t_L` is not in the log. Unsafe for a
slower realisation; with this hardware's latencies of 0 a sub-step ends at its last edge, and no edge is lost. -/
def runSequencer (c : Config) : Nat → State → State
  | 0, s => s
  | n + 1, s =>
    if s.busy && !s.resetDue (sequencerStep c s).now then runSequencer c n (sequencerStep c s) else s

/-- How many sub-steps a transmission has: two for each slot, three for the marker (R26). -/
def subStepsOfSend (c : Config) : Nat := 2 * c.nSlots + 1

/-! ### The micro-program of SEND -/

/-- The micro-operations of SEND for a Frame, in order (R94): what the sequencer's slots amount to. -/
def microProgram (c : Config) (f : Frame) : List Instr :=
  .sendbit true :: List.replicate c.nsync (.sendbit false) ++ .sendbit true :: f.bytes.map .sendbyte ++
    [.sendbyte (frameChecksum f), .eofmark]

/-- One micro-operation of the micro-program; a command is none (R93). -/
def runMicro (c : Config) (i : Instr) (s : State) : State :=
  match i with
  | .sendbit v => sendBit c v s
  | .sendbyte b => sendByte c b s
  | .eofmark => eofMark c s
  | .init => s
  | .setaddr _ => s
  | .settype _ => s
  | .setdata _ _ _ => s
  | .send => s

/-- Micro-operations in a row, each entered when the gap after the one before is over (R144). -/
def runMicros (c : Config) : List Instr → State → State
  | [], s => s
  | [i], s => runMicro c i s
  | i :: i' :: is, s => runMicros c (i' :: is) (microGap c (runMicro c i s))

/-! ### SEND -/

/-- Acceptance of SEND: `BUSY <- 1; SLOT <- 0; STEP <- S_WAIT; SUM <- 0` (R28, R177). -/
def acceptSend (s : State) : State := ((s.setBusy true).setPosition 0 .wait).setSum 0

/-- SEND (R177): acceptance, then the sequencer until `BUSY` is 0 again, or until a reset is due (R211). -/
def sendFrame (c : Config) (s : State) : State := runSequencer c (subStepsOfSend c) (acceptSend s)

/-- SEND (R177). -/
def execSend (s : State) : Host.Outcome State Fault Refusal := acceptCommand s (sendFrame Config.hardware)

end Sys2Proof.Machine
end

