-- ==== Sys2Proof/Machine/Dispatch.lean ====
section
/-! DEFINITION. The dispatcher: one arm for each constructor of Instr. -/

namespace Sys2Proof.Machine

def exec (i : Instr) (s : State) : Host.Outcome State Fault Refusal :=
  match i with
  | .init => Sys2Proof.Machine.execInit s
  | .setaddr addr => Sys2Proof.Machine.execSetaddr addr s
  | .settype kind => Sys2Proof.Machine.execSettype kind s
  | .setdata temp humidity voltage => Sys2Proof.Machine.execSetdata temp humidity voltage s
  | .send => Sys2Proof.Machine.execSend s
  | .sendbit v => Sys2Proof.Machine.execSendbit v s
  | .sendbyte b => Sys2Proof.Machine.execSendbyte b s
  | .eofmark => Sys2Proof.Machine.execEofmark s

end Sys2Proof.Machine
end

