-- ==== Sys2Proof/Machine/Fetch.lean ====
section
/-! DEFINITION. What happens next at the ports: the word the host presents and when it is accepted (R13, R198, R200), the
micro-operations of a bench (R93), the pulses on `rst` (R210, R211), and time passing while nothing happens (R7). -/

namespace Sys2Proof.Machine

/-- When a presented word is accepted: "the host keeps presenting it and it is accepted at the first time `BUSY = 0`" (R198). -/
def acceptTime (s : State) (p : Presented) : Time := laterOf s.now p.notBefore

/-- The state at the acceptance of the word `p`, with the words still to come (R13). -/
def State.acceptWord (s : State) (p : Presented) (rest : List Presented) : State :=
  { s with now := acceptTime s p, host := rest }

/-- When a micro-operation on the bench is entered. -/
def benchTime (s : State) (b : Benched) : Time := laterOf s.now b.notBefore

/-- The state at the entry of the micro-operation `b`, with those still to come (log 8). -/
def State.enterBenched (b : Benched) (rest : List Benched) (s : State) : State := { s with now := benchTime s b, bench := rest }

/-- `rst` becomes 1: at the time the next pulse names, or at once where that time is past. Whatever runs is abandoned (R211). -/
def assertReset (c : Config) (s : State) : State :=
  match s.resets with
  | [] => s
  | p :: _ => { (s.waitUntil p.assertAt).resetBlock c with rst := true }

/-- `rst` is 1 until the time the pulse names; at its release the block is in the reset state, and the pulse is over (R210). A level
with no pulse left holds for ever, a microsecond a step. -/
def holdReset (c : Config) (s : State) : State :=
  match s.resets with
  | [] => (s.delay 1).resetBlock c
  | p :: rest => { (s.waitUntil p.releaseAt).resetBlock c with rst := false, resets := rest }

/-- Nothing is presented, nothing runs: a microsecond passes (R7, R201; log 17). -/
def idleTick (s : State) : State := s.delay 1

/-- A command word at the moment it is accepted: the command it stands for. A reserved word is accepted "and changes no state" (R86,
R87; log 9). -/
def runWord (cw : CommandWord) (s : State) : Host.Outcome State Fault Refusal :=
  match decodeCommand cw with
  | .ok i => exec i s
  | .error _ => .next s

/-- A label at the moment the bench enters it: the micro-operation it names. A label that names none is refused (U22; log 10). -/
def runLabel (uop : MicroLabel) (s : State) : Host.Outcome State Fault Refusal :=
  match decodeMicro uop with
  | .ok i => exec i s
  | .error _ => .refused (.reservedLabel uop)

/-- The next word the host presents, unless a reset is due before it can be accepted; if the host presents nothing more, the next
reset, and if there is none either, a microsecond passes. -/
def stepHost (s : State) : Host.Outcome State Fault Refusal :=
  match s.host with
  | [] => if s.resets.isEmpty then .next (idleTick s) else .next (assertReset Config.hardware s)
  | p :: rest =>
    if s.resetDue (acceptTime s p) then .next (assertReset Config.hardware s) else runWord p.word (s.acceptWord p rest)

/-- An idle block: the next micro-operation of a bench, unless a reset is due before its entry; without a bench, which is every run of
this hardware, the host. DESIGN CHOICE (log 8). -/
def stepIdle (s : State) : Host.Outcome State Fault Refusal :=
  match s.bench with
  | [] => stepHost s
  | b :: rest =>
    if s.resetDue (benchTime s b) then .next (assertReset Config.hardware s) else runLabel b.label (s.enterBenched b rest)

/-- A SEND that is running goes on by one sub-step, unless a reset is due before the sub-step's end (R211). -/
def stepBusy (s : State) : Host.Outcome State Fault Refusal :=
  if s.resetDue (sequencerStep Config.hardware s).now then .next (assertReset Config.hardware s)
  else .next (sequencerStep Config.hardware s)

end Sys2Proof.Machine
end

