-- ==== Sys2Proof/Machine/Step.lean ====
section
/-! DEFINITION. One step of the machine, in the order of precedence of R198: `rst`, then a running SEND, then the word the host
presents; a bench, where there is one, comes before the host (log 8). -/

namespace Sys2Proof.Machine

/-- One step (R198). -/
def step (s : State) : Host.Outcome State Fault Refusal :=
  if s.rst then .next (holdReset Config.hardware s) else if s.busy then stepBusy s else stepIdle s

/-- `s` with a row's word presented now, to a block that accepts it: idle, with no reset asserted or due, and no bench before the host
(log 4); a row's label stands on the bench instead, since no port carries it (R93; log 8). -/
def State.withFetchWord (s : State) (nbits w : Nat) : State :=
  { s with
    busy := false
    slot := 0
    subStep := .wait
    rst := false
    resets := s.resets.dropWhile fun p => decide (p.assertAt ≤ s.now)
    host :=
      match tableCode nbits w with
      | .command cw => { notBefore := s.now, word := cw } :: s.host
      | .micro _ => s.host
    bench :=
      match tableCode nbits w with
      | .command _ => []
      | .micro uop => { notBefore := s.now, label := uop } :: s.bench }

end Sys2Proof.Machine
end

