-- ==== Sys2Proof/WellFormed.lean ====
section
/-! DEFINITION. What may be built and what may be issued: the constraints on the constants (R11), which operations the host may
issue (R93), and the programs a model refuses (R86, R87). Each check is a Bool. -/

namespace Sys2Proof

/-- Who issues an operation. -/
inductive Issuer where
  | host
  | sequencer
deriving DecidableEq, Repr

/-- The host issues the five commands and cannot issue a micro-operation; the sequencer issues micro-operations only (R93). -/
def Instr.issuedBy : Issuer → Instr → Bool
  | .host, .init => true
  | .host, .setaddr _ => true
  | .host, .settype _ => true
  | .host, .setdata _ _ _ => true
  | .host, .send => true
  | .host, .sendbit _ => false
  | .host, .sendbyte _ => false
  | .host, .eofmark => false
  | .sequencer, .init => false
  | .sequencer, .setaddr _ => false
  | .sequencer, .settype _ => false
  | .sequencer, .setdata _ _ _ => false
  | .sequencer, .send => false
  | .sequencer, .sendbit _ => true
  | .sequencer, .sendbyte _ => true
  | .sequencer, .eofmark => true

/-- A word some operation of the table stands for: not reserved (R86, R87, U22). -/
def Code.wellFormed (code : Code) : Bool :=
  match decode code with
  | .ok _ => true
  | .error _ => false

/-- A list of command words a host may present: none of them reserved. R86 and R87 ask a model to refuse a program that
issues a reserved word; this check refuses it, while a step does what the hardware does with it (log 9). -/
def hostProgramWellFormed (words : List CommandWord) : Bool := words.all fun cw => (Code.command cw).wellFormed

/-- The constraints of R11: `0 < SHORT < TOTAL` and `LENGTH = 8` (`NSYNC ≥ 0` holds of every Nat); and two that the register
widths impose, DESIGN CHOICE, safe (log 19): `SLOT` has 7 bits, and the longest slot, 3 × `TOTAL`, fits the 64-bit clock. -/
def Config.wellFormed (c : Config) : Bool :=
  decide (0 < c.short) && decide (c.short < c.total) && decide (c.length = 8) && decide (c.nSlots ≤ 128) &&
    decide (3 * c.total < 2 ^ 64)

end Sys2Proof
end

