-- ==== Sys2Proof/Safety.lean ====
section
/-! DEFINITION. The terms the claims use: the expected waveform of a frame (R77, R178), which word a step runs, the premises on the
clock and on `rst` (R150, R211), and the invariant of the machine. -/

namespace Sys2Proof.Machine

/-! ### The expected waveform -/

/-- The 92 logical bits of the ordinary slots of a frame (R77). -/
def frameBits (c : Config) (f : Frame) : List Bool :=
  true :: List.replicate c.nsync false ++ true :: f.bytes.flatMap wireBits ++ wireBits (frameChecksum f)

/-- The two edges of a HIGH part of `width` microseconds from `start` on, the earlier one first. -/
def pulseEvents (start : Time) (width : Nat) : List PortEvent :=
  [{ time := start, port := .line, level := true }, { time := start + us width, port := .line, level := false }]

/-- The edges of a row of slots, the first rising at `start`, each `TOTAL` after the one before (R75, R178). -/
def bitEvents (c : Config) (start : Time) : List Bool → List PortEvent
  | [] => []
  | v :: vs => pulseEvents start (pulseWidth c v) ++ bitEvents c (start + us c.total) vs

/-- The HIGH time of the end-of-frame marker, `2 × TOTAL + SHORT` (R78, R176). -/
def markerWidth (c : Config) : Nat := c.eofHold + c.short

/-- The edges of a whole frame whose first rising edge is at `start` (R178). -/
def frameEvents (c : Config) (start : Time) (f : Frame) : List PortEvent :=
  bitEvents c start (frameBits c f) ++ pulseEvents (start + us ((c.nSlots - 1) * c.total)) (markerWidth c)

/-- First rising edge to last falling edge, `(N_SLOTS + 1) × TOTAL + SHORT` (R178). -/
def frameDuration (c : Config) : Nat := (c.nSlots + 1) * c.total + c.short

/-- First rising edge to the deadline a frame leaves, `(N_SLOTS + 2) × TOTAL` (R178). -/
def framePeriod (c : Config) : Nat := (c.nSlots + 2) * c.total

/-- `t0`: when the first rising edge of a SEND accepted now comes (R178). -/
def firstRise (s : State) : Time := laterOf s.now s.nextEdge

/-- How many logical ones a frame sends among its 64 Frame bits and 8 checksum bits (R226). -/
def onesSent (f : Frame) : Nat :=
  ((f.bytes ++ [frameChecksum f]).map fun b => ((wireBits b).take 8).count true).sum

/-- A change of the port `busy` at a time. -/
def busyEvent (time : Time) (level : Bool) : PortEvent := { time := time, port := .busy, level := level }

/-- The level a log leaves on a port: its latest change, or the reset level LOW. -/
def portLevel (port : Port) : List PortEvent → Bool
  | [] => false
  | e :: rest => if e.port = port then e.level else portLevel port rest

/-! ### Runs -/

/-- The next step runs the operation `i`: nothing else comes first (R198), and the word the host presents is `i`'s, or the label next on
the bench is (log 8). -/
def State.runs (s : State) (i : Instr) : Prop :=
  s.rst = false ∧ s.busy = false ∧
    ((s.bench = [] ∧ ∃ p rest, s.host = p :: rest ∧ s.resetDue (acceptTime s p) = false ∧ decodeCommand p.word = .ok i) ∨
      ∃ b rest, s.bench = b :: rest ∧ s.resetDue (benchTime s b) = false ∧ decodeMicro b.label = .ok i)

/-- The next step is forced by `rst` (R210, R211): it is asserted, or a pulse is asserted before what would come next. -/
def State.resetNext (s : State) : Prop :=
  s.rst = true ∨
    (s.busy = true ∧ s.resetDue (sequencerStep Config.hardware s).now = true) ∨
    (s.busy = false ∧ s.bench = [] ∧ ∃ p rest, s.host = p :: rest ∧ s.resetDue (acceptTime s p) = true) ∨
    (s.busy = false ∧ s.bench = [] ∧ s.host = [] ∧ s.resets ≠ []) ∨
    (s.busy = false ∧ ∃ b rest, s.bench = b :: rest ∧ s.resetDue (benchTime s b) = true)

/-- The premise on the clock: `micros` microseconds after `t` it has not passed 2^64 (R150, R220). -/
def clockHolds (t : Time) (micros : Nat) : Prop := t.toNat + micros < 2 ^ 64

/-- A run has ended (R201): nothing runs and the host presents nothing further; nor does a bench, where there is one (log 8). -/
def State.ended (s : State) : Prop := s.busy = false ∧ s.host = [] ∧ s.bench = []

/-- Operations in a row, stopping at the first fault or refusal. -/
def execAll : List Instr → State → Host.Outcome State Fault Refusal
  | [], s => .next s
  | i :: is, s =>
    match exec i s with
    | .next t => execAll is t
    | .fault r => .fault r
    | .refused r => .refused r

/-! ### Encodings -/

/-- The bits of a command word that name the operation and its operands; every other bit is ignored (R81, R82). -/
def usedBits : Instr → CommandWord
  | .init => commandWord 0xFF#8 0 0 0
  | .setaddr _ => commandWord 0xFF#8 0 0 0xFF#32
  | .settype _ => commandWord 0xFF#8 0 0 0xFF#32
  | .setdata _ _ _ => BitVec.allOnes 104
  | .send => commandWord 0xFF#8 0 0 0
  | .sendbit _ => 0
  | .sendbyte _ => 0
  | .eofmark => 0

/-! ### Numbers -/

/-- The rational number that a number of units of 2⁻¹⁴⁹ is. -/
def unitsValue (x : Int) : ℚ := (x : ℚ) / 2 ^ 149

/-- A number of units that a finite binary32 word has (R84): 24 significant bits, below 2^128. -/
def IsBinary32 (y : Int) : Prop := ∃ m e : Nat, m < 2 ^ 24 ∧ y.natAbs = m * 2 ^ e ∧ y.natAbs < 2 ^ 277

/-- The 24-bit significand is even (R122): normalised, or on the subnormal grid. -/
def HasEvenSignificand (y : Int) : Prop :=
  ∃ m e : Nat, m < 2 ^ 24 ∧ (2 ^ 23 ≤ m ∨ e = 0) ∧ m % 2 = 0 ∧ y.natAbs = m * 2 ^ e

/-- How many values the conversion of one field draws (R127). -/
def drawsUsed (r : Conversion) : Nat := if r = .nonfinite then 1 else 0

/-- The pattern of one field: the integer modulo 65536, or the `n`-th free value (R126, R127). -/
def patternOf (r : Conversion) (n : Nat) : Half :=
  match r with
  | .integer i => u16 i
  | .nonfinite => Config.freeHalf n

/-! ### The invariant -/

/-- How many Frame bytes are in `SUM` at a position: those whose SENDBYTE has been entered (R162). -/
def bytesSummed (c : Config) (slot : Nat) (t : SubStep) : Nat :=
  if slot < firstData c then 0
  else if slot < firstChecksum c then
    (slot - firstData c) / 9 + (if (slot - firstData c) % 9 = 0 ∧ t = .wait then 0 else 1)
  else 8

/-- What holds of the machine at every step. -/
structure State.Coherent (s : State) : Prop where
  /-- "while `BUSY = 0` both are 0" (R26). -/
  idle_position : s.busy = false → s.slot = 0 ∧ s.subStep = .wait
  /-- "`SLOT` never exceeds `N_SLOTS − 1`" (R28). -/
  slot_in_range : s.slot.toNat < Config.hardware.nSlots
  /-- The line is HIGH exactly in the sub-steps after the rising edge (R26, R79). -/
  line_level : s.line = decide (s.subStep ≠ .wait)
  /-- The pulse of an ordinary slot is not in the marker slot (R26). -/
  pulse_slot : s.subStep = .pulse → s.slot.toNat < Config.hardware.nSlots - 1
  /-- The marker's sub-steps are in the marker slot (R26, R176). -/
  marker_slot : s.subStep = .eofHold ∨ s.subStep = .eofPulse → s.slot.toNat = Config.hardware.nSlots - 1
  /-- `STATUS.ERR_RANGE` is hard-wired 0 under WRAP (R30). -/
  err_wired : s.errRange = false
  /-- "While `rst` is asserted ... the block is in this state" (R210). -/
  held : s.rst = true → s.busy = false ∧ s.nextEdge = 0 ∧ s.frame = Frame.reset
  /-- `SUM` is the sum of the Frame bytes taken so far (R162). -/
  partial_sum : s.busy = true →
    s.sum.toNat = byteSum (s.frame.bytes.take (bytesSummed Config.hardware s.slot.toNat s.subStep))
  /-- The log says what the line shows (R14). -/
  log_line : portLevel .line s.log = s.line
  /-- The log says what `busy` shows (R14). -/
  log_busy : portLevel .busy s.log = s.busy

end Sys2Proof.Machine
end

