-- ==== Sys2Proof/Certificates/Slice0/Obligations.lean ====
section
/-! DEFINITION. The statements for the provers. Every one says in its docstring which rule of the spec it formalises, and where it
rests on a choice of the model, which log entry made it. -/

open Sys2Proof Sys2Proof.Machine

/-! ### Encoding -/

/-- Decoding what the encoder writes gives the operation back, with every operand at every value (30_encoding.md, R80 to R83, R93). -/
def Obligations.DecodeOfEncodeGivesTheOperation : Prop := ∀ i : Instr, decode (encode i) = .ok i

/-- Each operation has exactly the words the tables give it: a command word that decodes agrees with the encoder's word on the bits
the command uses, whatever the unused bits are, and a label that decodes is the encoder's label (R81, R82, R93). -/
def Obligations.DecodedWordsAgreeOnTheUsedBits : Prop :=
  (∀ (cw : CommandWord) (i : Instr), decodeCommand cw = .ok i → encode i = .command (cw &&& usedBits i)) ∧
    ∀ (uop : MicroLabel) (i : Instr), decodeMicro uop = .ok i → encode i = .micro uop

/-- The reserved words are exactly those of R86 and R87: `OP` from `0x05` on, and SETTYPE with `CW[7:1]` not 0. -/
def Obligations.ReservedCommandWordsAreThoseOfTheTable : Prop :=
  ∀ cw : CommandWord,
    (∃ e, decodeCommand cw = .error e) ↔
      5 ≤ (cw.extractLsb' 96 8).toNat ∨ ((cw.extractLsb' 96 8).toNat = 2 ∧ cw.extractLsb' 1 7 ≠ 0#7)

/-- The words of the spec's encoding vectors decode to the operations they stand for (95_test_vectors.md section 2, R91, R93). -/
def Obligations.WrittenOutWordsDecode : Prop :=
  decodeCommand 0x00000000000000000000000000#104 = .ok .init ∧
    decodeCommand 0x01DEADBEEF12345678ABCDEF07#104 = .ok (.setaddr 7#8) ∧
    decodeCommand 0x02000000000000000000000001#104 = .ok (.settype .none) ∧
    decodeCommand 0x0341AC0000425CCCCD40533333#104 = .ok (.setdata 0x41AC0000#32 0x425CCCCD#32 0x40533333#32) ∧
    decodeCommand 0x04FFFFFFFFFFFFFFFFFFFFFFFF#104 = .ok .send ∧
    decodeMicro 0b0000000001#10 = .ok (.sendbit true) ∧
    decodeMicro 0b0111101110#10 = .ok (.sendbyte 238#8) ∧
    decodeMicro 0b1000000000#10 = .ok .eofmark

/-- A command word and its rendering as 13 bytes, `OP` first and each operand most significant byte first, decode alike (R80). -/
def Obligations.BytesAndWordDecodeAlike : Prop :=
  ∀ cw : CommandWord, decodeBytes (bytesOfCommand cw) = decodeCommand cw

/-! ### One step -/

/-- A command word that is accepted runs: it stands for a command, not for a micro-operation, and step is exec of it, at the state of the
acceptance, in which the clock shows the time of acceptance and the host has gone on to its next word (R13, R93, R198). The list of what
the host presents, and the bench, which is empty here, are the model's (log 4, log 8). -/
def Obligations.StepRunsTheDecodedOperation : Prop :=
  ∀ (s : State) (p : Presented) (rest : List Presented) (i : Instr),
    s.rst = false → s.busy = false → s.bench = [] → s.host = p :: rest → s.resetDue (laterOf s.now p.notBefore) = false →
      decodeCommand p.word = .ok i →
        i.issuedBy .host = true ∧ step s = exec i { s with now := laterOf s.now p.notBefore, host := rest }

/-- A reserved command word "is accepted and changes no state" (R86, R87): the model does what the hardware does (log 9). -/
def Obligations.ReservedCommandChangesNothing : Prop :=
  ∀ (s : State) (p : Presented) (rest : List Presented),
    s.rst = false → s.busy = false → s.bench = [] → s.host = p :: rest → s.resetDue (laterOf s.now p.notBefore) = false →
      (∀ i, decodeCommand p.word ≠ .ok i) →
        step s = .next { s with now := laterOf s.now p.notBefore, host := rest }

/-- A label that no micro-operation has, on a bench (log 8), stops the model by name: the sequencer never produces it (R93, U22; log 10). -/
def Obligations.ReservedLabelIsRefused : Prop :=
  ∀ (s : State) (b : Benched) (rest : List Benched),
    s.rst = false → s.busy = false → s.bench = b :: rest → s.resetDue (laterOf s.now b.notBefore) = false →
      (b.label.extractLsb' 8 2 = 3#2 ∨ (b.label.extractLsb' 8 2 = 2#2 ∧ b.label.extractLsb' 0 8 ≠ 0#8) ∨
          (b.label.extractLsb' 8 2 = 0#2 ∧ b.label.extractLsb' 1 7 ≠ 0#7)) →
        step s = .refused (.reservedLabel b.label)

/-- Nothing presented, no bench, nothing running, no reset to come: a microsecond passes and nothing else changes (R7, R201; log 17). -/
def Obligations.IdleStepOnlyLetsTimePass : Prop :=
  ∀ s : State, s.rst = false → s.busy = false → s.bench = [] → s.host = [] → s.resets = [] →
    step s = .next { s with now := s.now + 1#64 }

/-- Nothing faults: every operation answers a next state, and a step answers one too, unless a label that no micro-operation has is
on a bench, which is refused (R190; log 8, log 10). -/
def Obligations.EveryOperationAnswersANextState : Prop :=
  (∀ (i : Instr) (s : State), ∃ t, exec i s = .next t) ∧
    ∀ s : State, (∃ t, step s = .next t) ∨
      ∃ b rest, s.bench = b :: rest ∧ (∀ i, decodeMicro b.label ≠ .ok i) ∧ step s = .refused (.reservedLabel b.label)

/-- A command presented while a SEND runs is not accepted and has no effect; while `rst` is asserted nothing has (R198, R210; log 16). -/
def Obligations.OperationNotAcceptedHasNoEffect : Prop :=
  (∀ (i : Instr) (s : State), i.issuedBy .host = true → s.busy = true → exec i s = .next s) ∧
    ∀ (i : Instr) (s : State), s.rst = true → exec i s = .next s

/-- While a SEND runs and no reset cuts it, a step leaves the Frame, the flag `ERR_RANGE`, what the host presents and the draws as they
are, and reads every address as before (R57, R198, R216). -/
def Obligations.RunningSendHoldsTheFrameAndTheHost : Prop :=
  ∀ s t : State, s.rst = false → s.busy = true → s.resetDue (sequencerStep Config.hardware s).now = false →
    step s = .next t →
      t.frame = s.frame ∧ t.errRange = s.errRange ∧ t.rst = s.rst ∧ t.resets = s.resets ∧ t.host = s.host ∧
        t.bench = s.bench ∧ t.draws = s.draws ∧ ∀ addr, t.readByte addr = s.readByte addr

/-- A Frame byte changes only by the command that writes it, or by reset: `F[0]` by SETTYPE, `F[1]` by SETADDR, `F[2]` to `F[7]` by
SETDATA (R23, R24). -/
def Obligations.OnlyItsCommandWritesAFrameByte : Prop :=
  ∀ s t : State, step s = .next t →
    (t.frame.f0 ≠ s.frame.f0 → s.resetNext ∨ ∃ kind, s.runs (.settype kind)) ∧
      (t.frame.f1 ≠ s.frame.f1 → s.resetNext ∨ ∃ addr, s.runs (.setaddr addr)) ∧
      ((t.frame.val1 ≠ s.frame.val1 ∨ t.frame.val2 ≠ s.frame.val2 ∨ t.frame.val3 ≠ s.frame.val3) →
        s.resetNext ∨ ∃ temp humidity voltage, s.runs (.setdata temp humidity voltage))

/-- `NEXT_EDGE` changes only by INIT, by reset, or by a SENDBIT or end-of-frame marker, inside a SEND or alone on a bench (R31; the bench is
log 8). -/
def Obligations.OnlyTheBitClockWritesTheDeadline : Prop :=
  ∀ s t : State, step s = .next t → t.nextEdge ≠ s.nextEdge →
    s.resetNext ∨ s.busy = true ∨ s.runs .init ∨ s.runs .send ∨ s.runs .eofmark ∨ (∃ v, s.runs (.sendbit v)) ∨
      ∃ b, s.runs (.sendbyte b)

/-! ### Reset -/

/-- Right after reset: line LOW, deadline 0, idle, `ERR_RANGE` 0, the Frame at `FRAME_RESET`, whatever that is (R35, R210). `NOW` 0,
nothing presented and no bench are the model's choice (log 3, log 4, log 8). -/
def Obligations.ResetLeavesTheStatedValues : Prop :=
  State.reset.line = false ∧ State.reset.nextEdge = 0#64 ∧ State.reset.busy = false ∧ State.reset.slot = 0#7 ∧
    State.reset.subStep.code = 0#2 ∧ State.reset.errRange = false ∧
    (∀ i : Fin 8, State.reset.readByte i = some (Config.frameReset i)) ∧ Memory.wf State.reset.memory = true ∧
    State.reset.now = 0#64 ∧ State.reset.host = [] ∧ State.reset.bench = []

/-- `rst` wins: when it is asserted next, the step abandons whatever runs at that time. The line goes LOW (an edge if it was HIGH), the
deadline is 0, the sequencer idle, the Frame `FRAME_RESET`; what the host presents stays (R198, R210, R211). The pulses on
`rst` are the model's (log 5), and `SUM` is then its free constant (log 2). -/
def Obligations.ResetAbandonsWhateverRuns : Prop :=
  ∀ (s : State) (p : ResetPulse) (later : List ResetPulse), s.rst = false → s.resets = p :: later → s.resetNext →
    step s = .next
      { s with
        frame := Frame.reset, nextEdge := 0#64, line := false, busy := false, errRange := false, slot := 0#7, subStep := .wait
        sum := Config.sumReset, now := laterOf s.now p.assertAt, rst := true
        log := logChange .busy s.busy false (laterOf s.now p.assertAt)
          (logChange .line s.line false (laterOf s.now p.assertAt) s.log) }

/-- While `rst` is asserted the block is held in the reset state, and it is in that state at the release, idle and ready (R210; that
asserting and releasing are two steps is log 5). -/
def Obligations.ReleasedResetLeavesTheBlockIdle : Prop :=
  ∀ (s : State) (p : ResetPulse) (later : List ResetPulse), s.rst = true → s.resets = p :: later →
    ∃ t, step s = .next t ∧ t.rst = false ∧ t.now = laterOf s.now p.releaseAt ∧ t.resets = later ∧ t.host = s.host ∧
      t.bench = s.bench ∧ t.line = false ∧ t.nextEdge = 0#64 ∧ t.busy = false ∧ t.slot = 0#7 ∧ t.subStep = .wait ∧
      t.errRange = false ∧ t.frame = Frame.reset ∧ t.cmdReady = true

/-- The state right after reset is coherent. -/
def Obligations.ResetStateIsCoherent : Prop := State.reset.Coherent

/-- Every step keeps the machine coherent: the position legal and 0 while idle, the line HIGH exactly after a rising edge, `ERR_RANGE`
hard-wired 0, the block held by `rst`, `SUM` the sum of the bytes taken, and the log in accord with the ports (R26, R28, R30, R79,
R210). Which bytes `SUM` holds in the middle of a transmission is the model's choice, which R162 leaves open: a byte is added at the entry
of its first slot (log 7); the log of the ports is the model's too (log 15). -/
def Obligations.EveryStepKeepsTheMachineCoherent : Prop :=
  ∀ s t : State, s.Coherent → step s = .next t → t.Coherent

/-! ### The setup commands -/

/-- INIT, `OP = 0x00` with every other bit ignored: the line LOW, the deadline 0, `ERR_RANGE` 0; the Frame and everything else as
before, in no time (R110). -/
def Obligations.InitClearsLineDeadlineAndFailure : Prop :=
  (∀ cw : CommandWord, cw.extractLsb' 96 8 = 0x00#8 → decodeCommand cw = .ok .init) ∧
    ∀ s : State, s.busy = false → s.rst = false →
      ∃ t, exec .init s = .next t ∧
        t = { s with line := false, nextEdge := 0#64, errRange := false, log := logChange .line s.line false s.now s.log } ∧
        ∀ addr, t.readByte addr = s.readByte addr

/-- SETADDR, `OP = 0x01` with `addr = CW[7:0]`, stores any byte at offset 1 and changes nothing else, in no time (R111). -/
def Obligations.SetaddrStoresTheAddress : Prop :=
  (∀ cw : CommandWord, cw.extractLsb' 96 8 = 0x01#8 → decodeCommand cw = .ok (.setaddr (cw.extractLsb' 0 8))) ∧
    ∀ (addr : Byte) (s : State), s.busy = false → s.rst = false →
      ∃ t, exec (.setaddr addr) s = .next t ∧ t.readByte 1 = some addr ∧ (∀ a, a ≠ 1 → t.readByte a = s.readByte a) ∧
        t = { s with frame := t.frame }

/-- SETTYPE, `OP = 0x02` with `kind = CW[0]` and `CW[7:1] = 0`, stores 0 for HTV and 1 for NONE at offset 0 and changes nothing else, in
no time (R112). -/
def Obligations.SettypeStoresTheTag : Prop :=
  (∀ cw : CommandWord, cw.extractLsb' 96 8 = 0x02#8 → cw.extractLsb' 1 7 = 0#7 →
      decodeCommand cw = .ok (.settype (if cw.getLsbD 0 then .none else .htv))) ∧
    ∀ (kind : DataType) (s : State), s.busy = false → s.rst = false →
      ∃ t, exec (.settype kind) s = .next t ∧
        t.readByte 0 = some (match kind with | .htv => 0#8 | .none => 1#8) ∧ (∀ a, a ≠ 0 → t.readByte a = s.readByte a) ∧
        t = { s with frame := t.frame }

/-- SETDATA: each value field, low byte first, is its conversion modulo 65536, or a free value of its own where the conversion is
`NONFINITE`; DATATYPE, ADDRESS and everything else stay, in no time (R85, R126, R127, R130; the draws: log 11). -/
def Obligations.SetdataStoresTheThreeConversions : Prop :=
  ∀ (temp humidity voltage : Single) (s : State), s.busy = false → s.rst = false →
    ∃ t, exec (.setdata temp humidity voltage) s = .next t ∧
      let r1 := fx .binary32Stepwise temp 50
      let r2 := fx .binary32Stepwise humidity 0
      let r3 := fx .binary32Stepwise voltage 0
      let p1 := patternOf r1 s.draws
      let p2 := patternOf r2 (s.draws + drawsUsed r1)
      let p3 := patternOf r3 (s.draws + drawsUsed r1 + drawsUsed r2)
      t.readByte 2 = some (p1.extractLsb' 0 8) ∧ t.readByte 3 = some (p1.extractLsb' 8 8) ∧
        t.readByte 4 = some (p2.extractLsb' 0 8) ∧ t.readByte 5 = some (p2.extractLsb' 8 8) ∧
        t.readByte 6 = some (p3.extractLsb' 0 8) ∧ t.readByte 7 = some (p3.extractLsb' 8 8) ∧
        t.frame.val1 = p1 ∧ t.frame.val2 = p2 ∧ t.frame.val3 = p3 ∧
        (∀ a, a < 2 ∨ 8 ≤ a → t.readByte a = s.readByte a) ∧
        t = { s with frame := t.frame, draws := s.draws + drawsUsed r1 + drawsUsed r2 + drawsUsed r3 }

/-- "Writing the same value twice leaves the same state as writing it once" (R58), for SETADDR, SETTYPE, and SETDATA of three values
with a finite conversion. -/
def Obligations.SetupCommandsAreIdempotent : Prop :=
  ∀ (i : Instr) (s t : State),
    (∃ addr, i = .setaddr addr) ∨ (∃ kind, i = .settype kind) ∨
        (∃ temp humidity voltage, i = .setdata temp humidity voltage ∧ fx .binary32Stepwise temp 50 ≠ .nonfinite ∧
          fx .binary32Stepwise humidity 0 ≠ .nonfinite ∧ fx .binary32Stepwise voltage 0 ≠ .nonfinite) →
      exec i s = .next t → exec i t = .next t

/-- SETTYPE, SETADDR and SETDATA write disjoint bytes, so their order does not matter (R52, R214). -/
def Obligations.SetupOrderDoesNotMatter : Prop :=
  ∀ (addr : Byte) (kind : DataType) (temp humidity voltage : Single) (s : State), s.busy = false → s.rst = false →
    execAll [.setaddr addr, .settype kind] s = execAll [.settype kind, .setaddr addr] s ∧
      execAll [.setaddr addr, .setdata temp humidity voltage] s = execAll [.setdata temp humidity voltage, .setaddr addr] s ∧
      execAll [.settype kind, .setdata temp humidity voltage] s = execAll [.setdata temp humidity voltage, .settype kind] s

/-! ### The converter -/

/-- What a 32-bit operand word denotes (R84): the normal, subnormal, infinite and NaN words, with the finite values as rationals. -/
def Obligations.OperandWordsDenoteBinary32Values : Prop :=
  ∀ w : Single,
    let s := (w.getLsbD 31).toNat
    let e := (w.extractLsb' 23 8).toNat
    let m := (w.extractLsb' 0 23).toNat
    (1 ≤ e ∧ e ≤ 254 →
        ∃ u, f32 w = .finite u ∧ unitsValue u = (-1) ^ s * (2 : ℚ) ^ ((e : Int) - 127) * (1 + (m : ℚ) / 2 ^ 23)) ∧
      (e = 0 → ∃ u, f32 w = .finite u ∧ unitsValue u = (-1) ^ s * (2 : ℚ) ^ (-126 : Int) * ((m : ℚ) / 2 ^ 23)) ∧
      (e = 255 ∧ m = 0 → f32 w = .infinite (w.getLsbD 31)) ∧ (e = 255 ∧ m ≠ 0 → f32 w = .nan)

/-- `RN` rounds to the nearest binary32 value, on a tie to the one whose significand is even, and from 2^128 − 2^103 on to an infinity
with the sign of its argument; it flushes nothing to zero (R122, for the multiples of 2^−149 the converter meets: log 20). -/
def Obligations.RoundingIsToNearestEven : Prop :=
  roundNearest 0 = .finite 0 ∧
    ∀ x : Int,
      (2 ^ 277 - 2 ^ 252 ≤ |x| → roundNearest x = .infinite (decide (x < 0))) ∧
        (|x| < 2 ^ 277 - 2 ^ 252 →
          ∃ y, roundNearest x = .finite y ∧ IsBinary32 y ∧ (∀ z, IsBinary32 z → |x - y| ≤ |x - z|) ∧
            ∀ z, IsBinary32 z → z ≠ y → |x - z| = |x - y| → HasEvenSignificand y)

/-- Under stepwise rounding the first word at which the scaled value overflows is `0x7C23D70A`, and its negative, for either offset
(R124); without rounding every finite word gives an integer; a word that is not finite gives none. -/
def Obligations.ScaledValueOverflowsFromItsFirstWord : Prop :=
  ∀ (w : Single) (offset : Nat), offset = 0 ∨ offset = 50 →
    (w.toNat % 2 ^ 31 < 0x7F800000 →
        (fx .binary32Stepwise w offset = .nonfinite ↔ 0x7C23D70A ≤ w.toNat % 2 ^ 31) ∧
          fx .exactReal w offset ≠ .nonfinite) ∧
      (0x7F800000 ≤ w.toNat % 2 ^ 31 → fx .binary32Stepwise w offset = .nonfinite ∧ fx .exactReal w offset = .nonfinite)

/-- The reduction to 16 bits (R126): `u16(i)` is `i mod 65536` for every integer, and within signed 16 bits it reads back as `i`. -/
def Obligations.PatternsWrapModulo65536 : Prop :=
  ∀ i : Int, ((u16 i).toNat : Int) = i % 65536 ∧ (-32768 ≤ i → i ≤ 32767 → s16 (u16 i) = i) ∧ u16 (i + 65536) = u16 i

/-- What "add 0.5 then truncate toward zero" does to a scaled value `s`, in units (R128): from −0.5 on it is the floor of `s + 0.5`, below
it the ceiling; the open interval (−1.5, 0.5) gives 0, and a negative integer `−n` gives `−n + 1`. -/
def Obligations.RoundingMisroundsNegativeValues : Prop :=
  (∀ s : Int,
      (-(1 : ℚ) / 2 ≤ unitsValue s → truncUnits (s + unitsPerOne / 2) = ⌊unitsValue s + 1 / 2⌋) ∧
        (unitsValue s < -(1 : ℚ) / 2 → truncUnits (s + unitsPerOne / 2) = ⌈unitsValue s + 1 / 2⌉) ∧
        (-(3 : ℚ) / 2 < unitsValue s → unitsValue s < 1 / 2 → truncUnits (s + unitsPerOne / 2) = 0)) ∧
    ∀ n : Nat, 1 ≤ n → truncUnits (-(n : Int) * unitsPerOne + unitsPerOne / 2) = -(n : Int) + 1

/-- Negative zero and the subnormals convert as zero does, and every NaN is `NONFINITE`, under both numerics (R129). -/
def Obligations.TinyInputsConvertAsZero : Prop :=
  ∀ (numerics : Numerics) (w : Single),
    ((w.extractLsb' 23 8).toNat = 0 → fx numerics w 50 = .integer 5000 ∧ fx numerics w 0 = .integer 0) ∧
      ((w.extractLsb' 23 8).toNat = 255 → fx numerics w 50 = .nonfinite ∧ fx numerics w 0 = .nonfinite)

/-- The inputs represented without wrapping are exactly those up to the boundary words of R132, under both numerics, and the next words
give 32768 and −32769. -/
def Obligations.RangeEndsAtTheBoundaryWords : Prop :=
  ∀ (numerics : Numerics),
    (∀ w : Single, w.toNat < 0x7F800000 → ((fx numerics w 50).inRange = true ↔ w.toNat ≤ 0x438AD666)) ∧
      (∀ w : Single, 0x80000000 ≤ w.toNat → w.toNat < 0xFF800000 →
        ((fx numerics w 50).inRange = true ↔ w.toNat ≤ 0xC3BCD8F5)) ∧
      (∀ w : Single, w.toNat < 0x7F800000 → ((fx numerics w 0).inRange = true ↔ w.toNat ≤ 0x43A3D666)) ∧
      (∀ w : Single, 0x80000000 ≤ w.toNat → w.toNat < 0xFF800000 →
        ((fx numerics w 0).inRange = true ↔ w.toNat ≤ 0xC3A3D8F5)) ∧
      fx numerics 0x438AD666#32 50 = .integer 32767 ∧ fx numerics 0x438AD667#32 50 = .integer 32768 ∧
      fx numerics 0xC3BCD8F5#32 50 = .integer (-32768) ∧ fx numerics 0xC3BCD8F6#32 50 = .integer (-32769) ∧
      fx numerics 0x43A3D666#32 0 = .integer 32767 ∧ fx numerics 0x43A3D667#32 0 = .integer 32768 ∧
      fx numerics 0xC3A3D8F5#32 0 = .integer (-32768) ∧ fx numerics 0xC3A3D8F6#32 0 = .integer (-32769)

/-- The round-trip law (R133): a temperature from −50.00 to 277.66, a humidity or voltage from 0.00 to 327.66, is reproduced by inverse
scaling (R71) to within 0.01, under both numerics; a negative scaled value is not (the word of −0.0149 is off by almost 0.015). -/
def Obligations.EncodedQuantitiesRoundTripWithinAHundredth : Prop :=
  ∀ numerics : Numerics,
    (∀ (w : Single) (u : Int), f32 w = .finite u →
        (-50 ≤ unitsValue u → unitsValue u ≤ 27766 / 100 →
            ∃ i, fx numerics w 50 = .integer i ∧ |inverseScale (u16 i) 50 - unitsValue u| ≤ 1 / 100) ∧
          (0 ≤ unitsValue u → unitsValue u ≤ 32766 / 100 →
            ∃ i, fx numerics w 0 = .integer i ∧ |inverseScale (u16 i) 0 - unitsValue u| ≤ 1 / 100)) ∧
      ∃ i u, fx numerics 0xBC741F21#32 0 = .integer i ∧ f32 0xBC741F21#32 = .finite u ∧
        148 / 10000 < |inverseScale (u16 i) 0 - unitsValue u|

/-- SETDATA in a block built with `RANGE_POLICY = FAIL` (R131, R191 to R195): if all three results are integers that signed 16 bits
hold, it writes them and clears the flag; otherwise it writes no byte and sets the flag, cause 1. Nothing else changes either way. -/
def Obligations.FailPolicyWritesAllOrNothing : Prop :=
  ∀ (c : Config) (temp humidity voltage : Single) (s : State), c.rangePolicy = .fail →
    (∀ i1 i2 i3 : Int, fx c.numerics temp 50 = .integer i1 → fx c.numerics humidity 0 = .integer i2 →
        fx c.numerics voltage 0 = .integer i3 → (∀ i ∈ [i1, i2, i3], -32768 ≤ i ∧ i ≤ 32767) →
          setData c temp humidity voltage s =
              { s with
                frame := ((s.frame.setHalf 2 (u16 i1)).setHalf 4 (u16 i2)).setHalf 6 (u16 i3)
                errRange := false
                log := logChange .errRange s.errRange false s.now s.log } ∧
            ((setData c temp humidity voltage s).cause c).code = 0) ∧
      ((∃ r ∈ [fx c.numerics temp 50, fx c.numerics humidity 0, fx c.numerics voltage 0],
          ∀ i : Int, r = .integer i → i < -32768 ∨ 32767 < i) →
        setData c temp humidity voltage s =
            { s with errRange := true, log := logChange .errRange s.errRange true s.now s.log } ∧
          ((setData c temp humidity voltage s).cause c).code = 1)

/-- A SEND takes no notice of `ERR_RANGE` and does not change it, in any configuration: the same waveform, the flag as it was (R195). -/
def Obligations.SendTakesNoNoticeOfTheFailureFlag : Prop :=
  ∀ (c : Config) (e : Bool) (s : State), sendFrame c { s with errRange := e } = { sendFrame c s with errRange := e }

/-! ### The bit-clock -/

/-- The three primitives: `WaitUntil(T)` completes at `max(t, T)`, `Delay(D)` at `t + D`, and neither changes anything else; `SetLine(b)`
takes no time and makes an edge exactly where the level changes (R141, R142, R143). -/
def Obligations.TimingPrimitivesDoWhatTheySay : Prop :=
  ∀ (s : State) (t : Time) (d : Nat) (b : Bool),
    (s.waitUntil t = { s with now := (s.waitUntil t).now } ∧ (s.waitUntil t).now.toNat = max s.now.toNat t.toNat) ∧
      (s.delay d = { s with now := (s.delay d).now } ∧ (s.now.toNat + d < 2 ^ 64 → (s.delay d).now.toNat = s.now.toNat + d)) ∧
      (b = s.line → s.setLine b = s) ∧
      (b ≠ s.line → s.setLine b = { s with line := b, log := { time := s.now, port := .line, level := b } :: s.log })

/-- SENDBIT (R145), label `00 0000000v`: the rising edge at `t_H = max(t_in, NEXT_EDGE)`, the deadline `t_H + TOTAL` modulo 2^64, the
falling edge and the exit `SHORT` later for a 1 and `LONG` later for a 0; nothing else changes, no byte of memory among it. It is stated
without the premise of R150: that the clock itself wraps where the pulse passes 2^64 is the model's choice (log 14). -/
def Obligations.SendbitEmitsOnePulse : Prop :=
  decodeMicro 0b0000000000#10 = .ok (.sendbit false) ∧ decodeMicro 0b0000000001#10 = .ok (.sendbit true) ∧
  ∀ (v : Bool) (s : State), s.rst = false →
    ∃ t, exec (.sendbit v) s = .next t ∧
      (firstRise s).toNat = max s.now.toNat s.nextEdge.toNat ∧
      t =
        { s with
          now := firstRise s + (if v then 600#64 else 1400#64)
          line := false
          nextEdge := firstRise s + 2000#64
          log :=
            { time := firstRise s + (if v then 600#64 else 1400#64), port := .line, level := false } ::
              logChange .line s.line true (firstRise s) s.log } ∧
      ∀ addr, t.readByte addr = s.readByte addr

/-- SENDBIT with latencies (R152), in any configuration: the pulse is `W + ds + dd` wide, and if the next SENDBIT is entered in time, its
rising edge comes `TOTAL + ds + dw'` after this one's. Stated without the premise of R150: that the clock itself wraps where a delay
passes 2^64 is the model's choice (log 14). -/
def Obligations.LatenciesAddToThePeriod : Prop :=
  ∀ (c : Config) (l l' : Latency) (v v' : Bool) (s : State),
    let rise := firstRise s + us l.dw
    let fall := rise + us l.ds + us (pulseWidth c v) + us l.dd
    let t := sendBitWith c l v s
    t =
        { s with
          now := fall
          line := false
          nextEdge := rise + us l.ds + us c.total
          log := { time := fall, port := .line, level := false } :: logChange .line s.line true rise s.log } ∧
      (fall + us l.dg ≤ t.nextEdge →
        let rise' := rise + us (c.total + l.ds + l'.dw)
        (sendBitWith c l' v' (t.delay l.dg)).log =
          { time := rise' + us l'.ds + us (pulseWidth c v') + us l'.dd, port := .line, level := false } ::
            { time := rise', port := .line, level := true } :: t.log)

/-- Compensation and late entry (R147, R148): entered `g` after the exit of a SENDBIT of width `W`, the next SENDBIT or EOFMARK rises
exactly `TOTAL` after it if `W + g ≤ TOTAL`, and otherwise at once; a SENDBIT's own deadline is then `TOTAL` after its own rising edge. -/
def Obligations.GapIsCompensatedUpToTheDeadline : Prop :=
  ∀ (v : Bool) (i : Instr) (g : Nat) (s : State), i = .sendbit false ∨ i = .sendbit true ∨ i = .eofmark → s.rst = false →
    clockHolds (firstRise s) (4000 + 1400 + 2000 + g) →
      let w := pulseWidth Config.hardware v
      let rise' := if w + g ≤ 2000 then firstRise s + us 2000 else firstRise s + us (w + g)
      ∃ t u fall, exec (.sendbit v) s = .next t ∧ t.now = firstRise s + us w ∧ exec i (t.delay g) = .next u ∧
        u.log = { time := fall, port := .line, level := false } :: { time := rise', port := .line, level := true } :: t.log ∧
        u.now = fall ∧ (i ≠ .eofmark → u.nextEdge = rise' + us 2000)

/-- The deadline at the top of the 64-bit range (R150): the sum is taken modulo 2^64, and the next SENDBIT, which sees the small deadline as
long past, rises at once. That the model runs it, and that the clock itself wraps where the second pulse passes 2^64, is its choice
(log 14). -/
def Obligations.DeadlineWrapsAtTheTopOfTheClock : Prop :=
  ∀ (v v' : Bool) (s : State), s.rst = false → 2 ^ 64 ≤ (firstRise s).toNat + 2000 →
    (firstRise s).toNat + pulseWidth Config.hardware v < 2 ^ 64 →
      ∃ t u, exec (.sendbit v) s = .next t ∧ t.nextEdge.toNat = (firstRise s).toNat + 2000 - 2 ^ 64 ∧
        exec (.sendbit v') t = .next u ∧
        u.log =
          { time := t.now + us (pulseWidth Config.hardware v'), port := .line, level := false } ::
            { time := t.now, port := .line, level := true } :: t.log

/-- The first SENDBIT after INIT, or after reset, does not wait, whatever the time (R151). Where its pulse passes 2^64 the time of its
falling edge is the model's choice (log 14). -/
def Obligations.FirstBitAfterInitDoesNotWait : Prop :=
  (∀ (v : Bool) (s : State), s.busy = false → s.rst = false →
      ∃ t u, exec .init s = .next t ∧ exec (.sendbit v) t = .next u ∧
        u.log =
          { time := t.now + us (pulseWidth Config.hardware v), port := .line, level := false } ::
            { time := t.now, port := .line, level := true } :: t.log) ∧
    ∀ (v : Bool) (now : Time), ∃ u, exec (.sendbit v) { State.reset with now := now } = .next u ∧
      u.log =
        [{ time := now + us (pulseWidth Config.hardware v), port := .line, level := false },
          { time := now, port := .line, level := true }]

/-! ### The transmitter -/

/-- The micro-operations change the line, the deadline, the clock and the log, and nothing else: no Frame byte, no `SUM`, no flag, no
sequencer position (R146, R172, R176). -/
def Obligations.MicroOperationsTouchOnlyTheBitClock : Prop :=
  ∀ (i : Instr) (s t : State), i.issuedBy .sequencer = true → exec i s = .next t →
    t = { s with line := t.line, nextEdge := t.nextEdge, now := t.now, log := t.log } ∧
      ∀ addr, t.readByte addr = s.readByte addr

/-- SENDBYTE, label `01 bbbbbbbb`, is nine SENDBITs in a row: the eight bits, least significant first, then a 1 (R172). -/
def Obligations.SendbyteIsNineSendbits : Prop :=
  ∀ (b : Byte) (s : State), decodeMicro (0b01#2 ++ b) = .ok (.sendbyte b) ∧
    exec (.sendbyte b) s =
      execAll
        [.sendbit (b.getLsbD 0), .sendbit (b.getLsbD 1), .sendbit (b.getLsbD 2), .sendbit (b.getLsbD 3), .sendbit (b.getLsbD 4),
          .sendbit (b.getLsbD 5), .sendbit (b.getLsbD 6), .sendbit (b.getLsbD 7), .sendbit true] s

/-- The waveform of a SENDBYTE: nine slots of `TOTAL` each, from `t0 = max(t_in, NEXT_EDGE)`; it exits at the stop bit's falling edge and
leaves the deadline nine slots after `t0` (R76, R172). -/
def Obligations.SendbyteWaveform : Prop :=
  ∀ (b : Byte) (s : State), s.rst = false → s.line = false → clockHolds (firstRise s) (9 * 2000) →
    exec (.sendbyte b) s = .next
      { s with
        now := firstRise s + us (8 * 2000 + 600)
        nextEdge := firstRise s + us (9 * 2000)
        log := (bitEvents Config.hardware (firstRise s) (wireBits b)).reverse ++ s.log }

/-- EOFMARK (R176), label `10 00000000`: one HIGH pulse from `t_E = max(t_in, NEXT_EDGE)` of `2 × TOTAL + SHORT`, exit at its falling
edge, the deadline `3 × TOTAL` after `t_E`; nothing else changes. -/
def Obligations.EofmarkEmitsTheMarker : Prop :=
  decodeMicro 0b1000000000#10 = .ok .eofmark ∧
  ∀ s : State, s.rst = false → clockHolds (firstRise s) (3 * 2000) →
    ∃ t, exec .eofmark s = .next t ∧
      t =
        { s with
          now := firstRise s + 4600#64
          line := false
          nextEdge := firstRise s + 6000#64
          log :=
            { time := firstRise s + 4600#64, port := .line, level := false } ::
              logChange .line s.line true (firstRise s) s.log } ∧
      ∀ addr, t.readByte addr = s.readByte addr

/-- SEND, closed form (R177, R178): from `t0 = max(t_in, NEXT_EDGE)` the 93 slots of the Frame as it stands, whatever it holds, `BUSY` from
acceptance to `t0 + 188600`, then idle with `NEXT_EDGE = t0 + 190000` and `SUM` the byte sum; the Frame and everything else as before.
The premises: the line LOW, no pulse on `rst` until the exit, and the clock not at the top of its range (R150). -/
def Obligations.SendTransmitsTheFrame : Prop :=
  ∀ s : State, s.busy = false → s.rst = false → s.line = false → clockHolds (firstRise s) 190000 →
    s.resetDue (firstRise s + 188600#64) = false →
      ∃ t, exec .send s = .next t ∧
        t =
          { s with
            now := firstRise s + 188600#64
            nextEdge := firstRise s + 190000#64
            slot := 0#7
            subStep := .wait
            sum := BitVec.ofNat 11 (byteSum s.frame.bytes)
            log :=
              busyEvent (firstRise s + 188600#64) false :: (frameEvents Config.hardware (firstRise s) s.frame).reverse ++
                busyEvent s.now true :: s.log } ∧
        ∀ addr, t.readByte addr = s.readByte addr

/-- The same closed form for every well-formed configuration without latencies (R178: "In general `92` is `N_SLOTS − 1`, `94` is
`N_SLOTS + 1`, `95` is `N_SLOTS + 2`"). Well-formed asks, besides R11, for the bounds of log 19, the model's choice: `N_SLOTS` at most 128
and 3 × `TOTAL` below 2^64. -/
def Obligations.SendTransmitsTheFrameInEveryConfiguration : Prop :=
  ∀ (c : Config) (s : State), c.wellFormed = true → c.lat = Latency.zero → s.busy = false → s.line = false →
    clockHolds (firstRise s) (framePeriod c) → s.resetDue (firstRise s + us (frameDuration c)) = false →
      sendFrame c s =
        { s with
          now := firstRise s + us (frameDuration c)
          nextEdge := firstRise s + us (framePeriod c)
          slot := 0#7
          subStep := .wait
          sum := BitVec.ofNat 11 (byteSum s.frame.bytes)
          log :=
            busyEvent (firstRise s + us (frameDuration c)) false :: (frameEvents c (firstRise s) s.frame).reverse ++
              busyEvent s.now true :: s.log }

/-- SEND is its micro-program (R94, R177): acceptance, then the micro-operations of the Frame one after another, then the exit, with
`SUM` the byte sum. In every well-formed configuration (with the bounds of log 19), with any latencies, from any state in which no reset
is to come. That one `LAT` serves every bit of a configuration, and how EOFMARK takes it, is the model's choice (log 13). -/
def Obligations.SendIsItsMicroProgram : Prop :=
  ∀ (c : Config) (s : State), c.wellFormed = true → s.resets = [] →
    sendFrame c s =
      finishSend ((runMicros c (microProgram c s.frame) (acceptSend s)).setSum (BitVec.ofNat 11 (byteSum s.frame.bytes)))

/-- The sub-steps of an ordinary slot are one SENDBIT of the slot's bit, after which `SLOT` goes up by one; the three of the marker slot
are one EOFMARK, after which the SEND has exited (R28; R145 and R176 where the latencies are 0). With latencies, the gap between two
micro-operations and the form of EOFMARK are the model's (log 13); so is the place of the addition to `SUM`, `enterSlot` (log 7), and so
are the bounds of a well-formed configuration (log 19). -/
def Obligations.SlotsAreSendbitsAndTheMarker : Prop :=
  ∀ (c : Config) (s : State), c.wellFormed = true → s.subStep = .wait →
    (s.slot.toNat + 1 < c.nSlots →
        sequencerStep c (sequencerStep c s) =
          microGap c ((sendBit c (slotBit c s) (enterSlot c s)).setPosition (s.slot + 1) .wait)) ∧
      (s.slot.toNat + 1 = c.nSlots →
        sequencerStep c (sequencerStep c (sequencerStep c s)) = finishSend (eofMark c s))

/-- Sub-step by sub-step is the same as at once: from the acceptance of a SEND, 187 steps of the machine, each one sub-step of the
sequencer, reach what exec answers for the SEND (R28, R177; log 6). -/
def Obligations.SteppingThroughASendReachesItsEnd : Prop :=
  ∀ s : State, s.busy = false → s.rst = false → s.resets = [] →
    Host.Core.run Sys2Proof.core 187 (acceptSend s) = exec .send s

/-- What a SEND leaves alone, whether it completes or a reset cuts it short: the Frame, `ERR_RANGE`, `rst` and what is to come on it, what
the host presents, and the draws (R24, R177). -/
def Obligations.SendLeavesTheFrameAlone : Prop :=
  ∀ s t : State, exec .send s = .next t →
    t.frame = s.frame ∧ t.errRange = s.errRange ∧ t.rst = s.rst ∧ t.resets = s.resets ∧ t.host = s.host ∧
      t.bench = s.bench ∧ t.draws = s.draws ∧ ∀ addr, t.readByte addr = s.readByte addr

/-- Two frames in a row (R180 for the times relative to the first rising edge, R181): a second SEND, accepted `g` after the exit of the
first with no other command between, sends the same bits with the same times relative to its own first rising edge, which is `TOTAL × 95` after the first one's if `g ≤ LONG`, and at
acceptance otherwise. -/
def Obligations.BackToBackFramesArePhaseLocked : Prop :=
  (∀ (g : Nat) (s : State), s.busy = false → s.rst = false → s.line = false → s.resets = [] →
      clockHolds (firstRise s) (2 * 190000 + g) →
        let start := if g ≤ 1400 then firstRise s + us 190000 else firstRise s + us (188600 + g)
        ∃ t u, exec .send s = .next t ∧ exec .send (t.delay g) = .next u ∧
          u.log =
            busyEvent (start + us 188600) false :: (frameEvents Config.hardware start s.frame).reverse ++
              busyEvent (t.now + us g) true :: t.log ∧
          u.nextEdge = start + us 190000) ∧
    ∀ (c : Config) (start shift : Time) (f : Frame),
      frameEvents c (start + shift) f = (frameEvents c start f).map fun e => { e with time := e.time + shift }

/-- INIT between frames (R219): after SEND and INIT, a second SEND accepted `g` after the first one's exit rises at once, so that the LOW
part after the marker is `g`, which may be shorter than `LONG`. -/
def Obligations.InitBetweenFramesCutsTheMarkerShort : Prop :=
  ∀ (g : Nat) (s : State), s.busy = false → s.rst = false → s.line = false → s.resets = [] →
    clockHolds (firstRise s) (2 * 190000 + g) →
      ∃ t u v, exec .send s = .next t ∧ exec .init t = .next u ∧ exec .send (u.delay g) = .next v ∧
        v.log =
          busyEvent (t.now + us (g + 188600)) false ::
            (frameEvents Config.hardware (t.now + us g) s.frame).reverse ++ busyEvent (t.now + us g) true :: t.log

/-- Reset during a SEND (R211): a pulse on `rst` asserted at `r`, after acceptance and not after the exit, abandons the transmission at
`r`. The edges sent are those of the frame before `r`, then a falling edge at `r` if the line was HIGH; the next step leaves the block in
the reset state at `r`. The pulses and the state between the two steps are the model's (log 5, log 6). -/
def Obligations.ResetDuringASendCutsTheWaveform : Prop :=
  ∀ (s : State) (p : ResetPulse) (later : List ResetPulse), s.busy = false → s.rst = false → s.line = false →
    clockHolds (firstRise s) 190000 → s.resets = p :: later → s.now < p.assertAt →
      p.assertAt ≤ firstRise s + 188600#64 →
        ∃ t u, exec .send s = .next t ∧ t.busy = true ∧
          t.log =
            ((frameEvents Config.hardware (firstRise s) s.frame).filter fun e => decide (e.time < p.assertAt)).reverse ++
              busyEvent s.now true :: s.log ∧
          step t = .next u ∧ u.now = p.assertAt ∧ u.rst = true ∧ u.line = false ∧ u.busy = false ∧ u.nextEdge = 0#64 ∧
          u.slot = 0#7 ∧ u.subStep = .wait ∧ u.frame = Frame.reset ∧
          u.log = busyEvent p.assertAt false :: logChange .line t.line false p.assertAt t.log

/-- A SEND sends 93 bit slots whatever the Frame holds: 93 rising edges and 93 falling edges (R179). The premises are those of the closed
form. -/
def Obligations.EverySendHasNinetyThreeSlots : Prop :=
  ∀ s : State, s.busy = false → s.rst = false → s.line = false → clockHolds (firstRise s) 190000 →
    s.resetDue (firstRise s + 188600#64) = false →
      (frameBits Config.hardware s.frame).length + 1 = 93 ∧
        ∃ t new, exec .send s = .next t ∧ t.log = new ++ s.log ∧
          (new.filter fun e => e.port == .line && e.level).length = 93 ∧
          (new.filter fun e => e.port == .line && !e.level).length = 93

/-- The HIGH time of a frame is `124600 − 800 × n1` microseconds, `n1` the ones among its Frame bits and checksum bits (R226). -/
def Obligations.HighTimeCountsTheOnes : Prop :=
  ∀ f : Frame,
    ((frameBits Config.hardware f).map (pulseWidth Config.hardware)).sum + markerWidth Config.hardware + 800 * onesSent f =
        124600 ∧
      onesSent f ≤ 72

/-! ### The checksum -/

/-- The consequences of the checksum's definition (R165): all-zero gives 5, all-ones 253; adding to a byte adds to the checksum; swapping two
bytes does not change it; it is 0 exactly where the byte sum is 251 modulo 256. -/
def Obligations.ChecksumConsequences : Prop :=
  frameChecksum ⟨0, 2, 238, 27, 144, 21, 74, 1⟩ = 0#8 ∧ frameChecksum ⟨0, 0, 0, 0, 0, 0, 0, 0⟩ = 5#8 ∧
    frameChecksum ⟨255, 255, 255, 255, 255, 255, 255, 255⟩ = 253#8 ∧
    (∀ (f : Frame) (i : Fin 8) (d : Byte), frameChecksum (f.set i (f.get i + d)) = frameChecksum f + d) ∧
    (∀ (f : Frame) (i j : Fin 8), frameChecksum ((f.set i (f.get j)).set j (f.get i)) = frameChecksum f) ∧
    ∀ f : Frame, frameChecksum f = 0#8 ↔ byteSum f.bytes % 256 = 251

/-- The checksum is the byte sum plus 5 modulo 256; the sum never overflows 11 bits; a running sum of 8 bits that wraps gives the same
checksum (R160, R161). -/
def Obligations.ChecksumNeedsOnlyEightBits : Prop :=
  ∀ f : Frame,
    (frameChecksum f).toNat =
        (f.f0.toNat + f.f1.toNat + f.f2.toNat + f.f3.toNat + f.f4.toNat + f.f5.toNat + f.f6.toNat + f.f7.toNat + 5) % 256 ∧
      byteSum f.bytes ≤ 2040 ∧ byteSum f.bytes + 5 < 2 ^ 11 ∧
      f.bytes.foldl (fun acc b => acc + b) 0#8 + 5#8 = frameChecksum f

/-- The checksum byte formed from the `SUM` a completed SEND leaves is the checksum of the Frame, which is not stored (R162, R163). -/
def Obligations.SumFormsTheChecksumOfTheFrame : Prop :=
  ∀ s t : State, s.busy = false → s.rst = false → s.resets = [] → exec .send s = .next t →
    t.sum.toNat = byteSum s.frame.bytes ∧ formChecksum t.sum = frameChecksum s.frame

/-! ### Who issues a micro-operation -/

/-- The host cannot issue a micro-operation (R93): no command word stands for one, and a block without a bench never gets one. A bench is
the model's own (log 8): its next label runs as the micro-operation it names, at the state of its entry, in which the clock shows the time
of the entry and the bench has gone on. -/
def Obligations.OnlyABenchRunsAMicroOperationAlone : Prop :=
  (∀ (cw : CommandWord) (i : Instr), decodeCommand cw = .ok i → i.issuedBy .host = true ∧ i.issuedBy .sequencer = false) ∧
    (∀ s t : State, s.bench = [] → step s = .next t → t.bench = []) ∧
    ∀ (s : State) (b : Benched) (rest : List Benched) (i : Instr),
      s.rst = false → s.busy = false → s.bench = b :: rest → s.resetDue (laterOf s.now b.notBefore) = false →
        decodeMicro b.label = .ok i →
          i.issuedBy .sequencer = true ∧ step s = exec i { s with now := laterOf s.now b.notBefore, bench := rest }
end

