-- ==== Sys2Proof/Laws/Config.lean ====
section
/-! SUPPORT. The numbers of the hardware's configuration, one lemma each (R8 to R10), and that it is well formed (R11). -/

namespace Sys2Proof

@[simp] theorem Config.hardware_total : Config.hardware.total = 2000 := rfl

@[simp] theorem Config.hardware_short : Config.hardware.short = 600 := rfl

@[simp] theorem Config.hardware_nsync : Config.hardware.nsync = 9 := rfl

@[simp] theorem Config.hardware_length : Config.hardware.length = 8 := rfl

@[simp] theorem Config.hardware_numerics : Config.hardware.numerics = .binary32Stepwise := rfl

@[simp] theorem Config.hardware_rangePolicy : Config.hardware.rangePolicy = .wrap := rfl

@[simp] theorem Config.hardware_lat : Config.hardware.lat = Latency.zero := rfl

@[simp] theorem Config.hardware_long : Config.hardware.long = 1400 := rfl

@[simp] theorem Config.hardware_eofHold : Config.hardware.eofHold = 4000 := rfl

@[simp] theorem Config.hardware_nSlots : Config.hardware.nSlots = 93 := rfl

@[simp] theorem Config.hardware_wellFormed : Config.hardware.wellFormed = true := by decide

namespace Machine

@[simp] theorem pulseWidth_hardware_true : pulseWidth Config.hardware true = 600 := rfl

@[simp] theorem pulseWidth_hardware_false : pulseWidth Config.hardware false = 1400 := rfl

@[simp] theorem firstData_hardware : firstData Config.hardware = 11 := rfl

@[simp] theorem firstChecksum_hardware : firstChecksum Config.hardware = 83 := rfl

@[simp] theorem subStepsOfSend_hardware : subStepsOfSend Config.hardware = 187 := rfl

@[simp] theorem frameDuration_hardware : frameDuration Config.hardware = 188600 := rfl

@[simp] theorem framePeriod_hardware : framePeriod Config.hardware = 190000 := rfl

@[simp] theorem markerWidth_hardware : markerWidth Config.hardware = 4600 := rfl

/-- No slot of a well-formed configuration before the last is the marker, and the last is (R27, R77). -/
theorem slotKind_marker_iff (c : Config) (hc : c.wellFormed = true) (k : Nat) :
    slotKind c k = .marker ↔ c.nSlots ≤ k + 1 := by
  have hlen : c.length = 8 := by
    simp only [Config.wellFormed, Bool.and_eq_true, decide_eq_true_eq] at hc
    exact hc.1.1.2
  simp only [slotKind, firstChecksum, firstData, Config.nSlots, hlen]
  split_ifs <;> simp <;> omega

end Machine

end Sys2Proof
end

