-- ==== Sys2Proof/Laws/Decode.lean ====
section
/-! SUPPORT. The fields of a command word and of a label, read back from what the encoder assembles (R80, R93). -/

namespace Sys2Proof

/-- The word the encoder assembles, as a number: its four fields by place value (R80). -/
theorem commandWord_toNat (op : Byte) (a b c : Single) :
    (commandWord op a b c).toNat = op.toNat * 2 ^ 96 + a.toNat * 2 ^ 64 + b.toNat * 2 ^ 32 + c.toNat := by
  have ha := a.isLt
  have hb := b.isLt
  have hc := c.isLt
  simp only [commandWord, BitVec.toNat_append]
  rw [← Nat.shiftLeft_add_eq_or_of_lt (by omega), ← Nat.shiftLeft_add_eq_or_of_lt (by omega),
    ← Nat.shiftLeft_add_eq_or_of_lt (by omega)]
  simp only [Nat.shiftLeft_eq]
  omega

@[simp] theorem opField_commandWord (op : Byte) (a b c : Single) : opField (commandWord op a b c) = op := by
  apply BitVec.eq_of_toNat_eq
  have := op.isLt; have := a.isLt; have := b.isLt; have := c.isLt
  simp only [opField, BitVec.extractLsb'_toNat, commandWord_toNat, Nat.shiftRight_eq_div_pow]
  omega

@[simp] theorem aField_commandWord (op : Byte) (a b c : Single) : aField (commandWord op a b c) = a := by
  apply BitVec.eq_of_toNat_eq
  have := op.isLt; have := a.isLt; have := b.isLt; have := c.isLt
  simp only [aField, BitVec.extractLsb'_toNat, commandWord_toNat, Nat.shiftRight_eq_div_pow]
  omega

@[simp] theorem bField_commandWord (op : Byte) (a b c : Single) : bField (commandWord op a b c) = b := by
  apply BitVec.eq_of_toNat_eq
  have := op.isLt; have := a.isLt; have := b.isLt; have := c.isLt
  simp only [bField, BitVec.extractLsb'_toNat, commandWord_toNat, Nat.shiftRight_eq_div_pow]
  omega

@[simp] theorem cField_commandWord (op : Byte) (a b c : Single) : cField (commandWord op a b c) = c := by
  apply BitVec.eq_of_toNat_eq
  have := op.isLt; have := a.isLt; have := b.isLt; have := c.isLt
  simp only [cField, BitVec.extractLsb'_toNat, commandWord_toNat, Nat.shiftRight_eq_div_pow]
  omega

/-- The operand byte is the low byte of the third operand (R81). -/
theorem lowByte_eq (cw : CommandWord) : lowByte cw = (cField cw).setWidth 8 := by
  apply BitVec.eq_of_toNat_eq
  simp only [lowByte, cField, BitVec.extractLsb'_toNat, BitVec.toNat_setWidth, Nat.shiftRight_zero]
  omega

theorem microLabel_toNat (sel : BitVec 2) (operand : Byte) :
    (microLabel sel operand).toNat = sel.toNat * 2 ^ 8 + operand.toNat := by
  have := operand.isLt
  simp only [microLabel, BitVec.toNat_append]
  rw [← Nat.shiftLeft_add_eq_or_of_lt (by omega), Nat.shiftLeft_eq]

@[simp] theorem selField_microLabel (sel : BitVec 2) (operand : Byte) : selField (microLabel sel operand) = sel := by
  apply BitVec.eq_of_toNat_eq
  have := sel.isLt; have := operand.isLt
  simp only [selField, BitVec.extractLsb'_toNat, microLabel_toNat, Nat.shiftRight_eq_div_pow]
  omega

@[simp] theorem operandField_microLabel (sel : BitVec 2) (operand : Byte) :
    operandField (microLabel sel operand) = operand := by
  apply BitVec.eq_of_toNat_eq
  have := sel.isLt; have := operand.isLt
  simp only [operandField, BitVec.extractLsb'_toNat, microLabel_toNat, Nat.shiftRight_eq_div_pow]
  omega

end Sys2Proof
end

