-- ==== Sys2Proof/Laws/State.lean ====
section
/-! SUPPORT. One lemma for each field of State and each update of Machine/Ops.lean, Flags.lean and Fetch.lean, true by rfl: no
proof unfolds a record update. -/

namespace Sys2Proof.Machine

/-! ### State.setBusy -/

@[simp] theorem State.setBusy_frame (b : Bool) (s : State) : (s.setBusy b).frame = s.frame := rfl
@[simp] theorem State.setBusy_nextEdge (b : Bool) (s : State) : (s.setBusy b).nextEdge = s.nextEdge := rfl
@[simp] theorem State.setBusy_line (b : Bool) (s : State) : (s.setBusy b).line = s.line := rfl
@[simp] theorem State.setBusy_busy (b : Bool) (s : State) : (s.setBusy b).busy = b := rfl
@[simp] theorem State.setBusy_errRange (b : Bool) (s : State) : (s.setBusy b).errRange = s.errRange := rfl
@[simp] theorem State.setBusy_slot (b : Bool) (s : State) : (s.setBusy b).slot = s.slot := rfl
@[simp] theorem State.setBusy_subStep (b : Bool) (s : State) : (s.setBusy b).subStep = s.subStep := rfl
@[simp] theorem State.setBusy_sum (b : Bool) (s : State) : (s.setBusy b).sum = s.sum := rfl
@[simp] theorem State.setBusy_now (b : Bool) (s : State) : (s.setBusy b).now = s.now := rfl
@[simp] theorem State.setBusy_rst (b : Bool) (s : State) : (s.setBusy b).rst = s.rst := rfl
@[simp] theorem State.setBusy_resets (b : Bool) (s : State) : (s.setBusy b).resets = s.resets := rfl
@[simp] theorem State.setBusy_host (b : Bool) (s : State) : (s.setBusy b).host = s.host := rfl
@[simp] theorem State.setBusy_bench (b : Bool) (s : State) : (s.setBusy b).bench = s.bench := rfl
@[simp] theorem State.setBusy_draws (b : Bool) (s : State) : (s.setBusy b).draws = s.draws := rfl
@[simp] theorem State.setBusy_log (b : Bool) (s : State) : (s.setBusy b).log = logChange .busy s.busy b s.now s.log := rfl

/-! ### State.setErrRange -/

@[simp] theorem State.setErrRange_frame (c : Config) (b : Bool) (s : State) : (s.setErrRange c b).frame = s.frame := rfl
@[simp] theorem State.setErrRange_nextEdge (c : Config) (b : Bool) (s : State) : (s.setErrRange c b).nextEdge = s.nextEdge := rfl
@[simp] theorem State.setErrRange_line (c : Config) (b : Bool) (s : State) : (s.setErrRange c b).line = s.line := rfl
@[simp] theorem State.setErrRange_busy (c : Config) (b : Bool) (s : State) : (s.setErrRange c b).busy = s.busy := rfl
@[simp] theorem State.setErrRange_slot (c : Config) (b : Bool) (s : State) : (s.setErrRange c b).slot = s.slot := rfl
@[simp] theorem State.setErrRange_subStep (c : Config) (b : Bool) (s : State) : (s.setErrRange c b).subStep = s.subStep := rfl
@[simp] theorem State.setErrRange_sum (c : Config) (b : Bool) (s : State) : (s.setErrRange c b).sum = s.sum := rfl
@[simp] theorem State.setErrRange_now (c : Config) (b : Bool) (s : State) : (s.setErrRange c b).now = s.now := rfl
@[simp] theorem State.setErrRange_rst (c : Config) (b : Bool) (s : State) : (s.setErrRange c b).rst = s.rst := rfl
@[simp] theorem State.setErrRange_resets (c : Config) (b : Bool) (s : State) : (s.setErrRange c b).resets = s.resets := rfl
@[simp] theorem State.setErrRange_host (c : Config) (b : Bool) (s : State) : (s.setErrRange c b).host = s.host := rfl
@[simp] theorem State.setErrRange_bench (c : Config) (b : Bool) (s : State) : (s.setErrRange c b).bench = s.bench := rfl
@[simp] theorem State.setErrRange_draws (c : Config) (b : Bool) (s : State) : (s.setErrRange c b).draws = s.draws := rfl

/-! ### State.waitUntil -/

@[simp] theorem State.waitUntil_frame (t : Time) (s : State) : (s.waitUntil t).frame = s.frame := rfl
@[simp] theorem State.waitUntil_nextEdge (t : Time) (s : State) : (s.waitUntil t).nextEdge = s.nextEdge := rfl
@[simp] theorem State.waitUntil_line (t : Time) (s : State) : (s.waitUntil t).line = s.line := rfl
@[simp] theorem State.waitUntil_busy (t : Time) (s : State) : (s.waitUntil t).busy = s.busy := rfl
@[simp] theorem State.waitUntil_errRange (t : Time) (s : State) : (s.waitUntil t).errRange = s.errRange := rfl
@[simp] theorem State.waitUntil_slot (t : Time) (s : State) : (s.waitUntil t).slot = s.slot := rfl
@[simp] theorem State.waitUntil_subStep (t : Time) (s : State) : (s.waitUntil t).subStep = s.subStep := rfl
@[simp] theorem State.waitUntil_sum (t : Time) (s : State) : (s.waitUntil t).sum = s.sum := rfl
@[simp] theorem State.waitUntil_now (t : Time) (s : State) : (s.waitUntil t).now = laterOf s.now t := rfl
@[simp] theorem State.waitUntil_rst (t : Time) (s : State) : (s.waitUntil t).rst = s.rst := rfl
@[simp] theorem State.waitUntil_resets (t : Time) (s : State) : (s.waitUntil t).resets = s.resets := rfl
@[simp] theorem State.waitUntil_host (t : Time) (s : State) : (s.waitUntil t).host = s.host := rfl
@[simp] theorem State.waitUntil_bench (t : Time) (s : State) : (s.waitUntil t).bench = s.bench := rfl
@[simp] theorem State.waitUntil_draws (t : Time) (s : State) : (s.waitUntil t).draws = s.draws := rfl
@[simp] theorem State.waitUntil_log (t : Time) (s : State) : (s.waitUntil t).log = s.log := rfl

/-! ### State.delay -/

@[simp] theorem State.delay_frame (d : Nat) (s : State) : (s.delay d).frame = s.frame := rfl
@[simp] theorem State.delay_nextEdge (d : Nat) (s : State) : (s.delay d).nextEdge = s.nextEdge := rfl
@[simp] theorem State.delay_line (d : Nat) (s : State) : (s.delay d).line = s.line := rfl
@[simp] theorem State.delay_busy (d : Nat) (s : State) : (s.delay d).busy = s.busy := rfl
@[simp] theorem State.delay_errRange (d : Nat) (s : State) : (s.delay d).errRange = s.errRange := rfl
@[simp] theorem State.delay_slot (d : Nat) (s : State) : (s.delay d).slot = s.slot := rfl
@[simp] theorem State.delay_subStep (d : Nat) (s : State) : (s.delay d).subStep = s.subStep := rfl
@[simp] theorem State.delay_sum (d : Nat) (s : State) : (s.delay d).sum = s.sum := rfl
@[simp] theorem State.delay_now (d : Nat) (s : State) : (s.delay d).now = s.now + us d := rfl
@[simp] theorem State.delay_rst (d : Nat) (s : State) : (s.delay d).rst = s.rst := rfl
@[simp] theorem State.delay_resets (d : Nat) (s : State) : (s.delay d).resets = s.resets := rfl
@[simp] theorem State.delay_host (d : Nat) (s : State) : (s.delay d).host = s.host := rfl
@[simp] theorem State.delay_bench (d : Nat) (s : State) : (s.delay d).bench = s.bench := rfl
@[simp] theorem State.delay_draws (d : Nat) (s : State) : (s.delay d).draws = s.draws := rfl
@[simp] theorem State.delay_log (d : Nat) (s : State) : (s.delay d).log = s.log := rfl

/-! ### State.setLine -/

@[simp] theorem State.setLine_frame (b : Bool) (s : State) : (s.setLine b).frame = s.frame := rfl
@[simp] theorem State.setLine_nextEdge (b : Bool) (s : State) : (s.setLine b).nextEdge = s.nextEdge := rfl
@[simp] theorem State.setLine_line (b : Bool) (s : State) : (s.setLine b).line = b := rfl
@[simp] theorem State.setLine_busy (b : Bool) (s : State) : (s.setLine b).busy = s.busy := rfl
@[simp] theorem State.setLine_errRange (b : Bool) (s : State) : (s.setLine b).errRange = s.errRange := rfl
@[simp] theorem State.setLine_slot (b : Bool) (s : State) : (s.setLine b).slot = s.slot := rfl
@[simp] theorem State.setLine_subStep (b : Bool) (s : State) : (s.setLine b).subStep = s.subStep := rfl
@[simp] theorem State.setLine_sum (b : Bool) (s : State) : (s.setLine b).sum = s.sum := rfl
@[simp] theorem State.setLine_now (b : Bool) (s : State) : (s.setLine b).now = s.now := rfl
@[simp] theorem State.setLine_rst (b : Bool) (s : State) : (s.setLine b).rst = s.rst := rfl
@[simp] theorem State.setLine_resets (b : Bool) (s : State) : (s.setLine b).resets = s.resets := rfl
@[simp] theorem State.setLine_host (b : Bool) (s : State) : (s.setLine b).host = s.host := rfl
@[simp] theorem State.setLine_bench (b : Bool) (s : State) : (s.setLine b).bench = s.bench := rfl
@[simp] theorem State.setLine_draws (b : Bool) (s : State) : (s.setLine b).draws = s.draws := rfl
@[simp] theorem State.setLine_log (b : Bool) (s : State) : (s.setLine b).log = logChange .line s.line b s.now s.log := rfl

/-! ### State.setNextEdge -/

@[simp] theorem State.setNextEdge_frame (v : Time) (s : State) : (s.setNextEdge v).frame = s.frame := rfl
@[simp] theorem State.setNextEdge_nextEdge (v : Time) (s : State) : (s.setNextEdge v).nextEdge = v := rfl
@[simp] theorem State.setNextEdge_line (v : Time) (s : State) : (s.setNextEdge v).line = s.line := rfl
@[simp] theorem State.setNextEdge_busy (v : Time) (s : State) : (s.setNextEdge v).busy = s.busy := rfl
@[simp] theorem State.setNextEdge_errRange (v : Time) (s : State) : (s.setNextEdge v).errRange = s.errRange := rfl
@[simp] theorem State.setNextEdge_slot (v : Time) (s : State) : (s.setNextEdge v).slot = s.slot := rfl
@[simp] theorem State.setNextEdge_subStep (v : Time) (s : State) : (s.setNextEdge v).subStep = s.subStep := rfl
@[simp] theorem State.setNextEdge_sum (v : Time) (s : State) : (s.setNextEdge v).sum = s.sum := rfl
@[simp] theorem State.setNextEdge_now (v : Time) (s : State) : (s.setNextEdge v).now = s.now := rfl
@[simp] theorem State.setNextEdge_rst (v : Time) (s : State) : (s.setNextEdge v).rst = s.rst := rfl
@[simp] theorem State.setNextEdge_resets (v : Time) (s : State) : (s.setNextEdge v).resets = s.resets := rfl
@[simp] theorem State.setNextEdge_host (v : Time) (s : State) : (s.setNextEdge v).host = s.host := rfl
@[simp] theorem State.setNextEdge_bench (v : Time) (s : State) : (s.setNextEdge v).bench = s.bench := rfl
@[simp] theorem State.setNextEdge_draws (v : Time) (s : State) : (s.setNextEdge v).draws = s.draws := rfl
@[simp] theorem State.setNextEdge_log (v : Time) (s : State) : (s.setNextEdge v).log = s.log := rfl

/-! ### State.schedule -/

@[simp] theorem State.schedule_frame (c : Config) (s : State) : (s.schedule c).frame = s.frame := rfl
@[simp] theorem State.schedule_nextEdge (c : Config) (s : State) : (s.schedule c).nextEdge = s.now + us c.total := rfl
@[simp] theorem State.schedule_line (c : Config) (s : State) : (s.schedule c).line = s.line := rfl
@[simp] theorem State.schedule_busy (c : Config) (s : State) : (s.schedule c).busy = s.busy := rfl
@[simp] theorem State.schedule_errRange (c : Config) (s : State) : (s.schedule c).errRange = s.errRange := rfl
@[simp] theorem State.schedule_slot (c : Config) (s : State) : (s.schedule c).slot = s.slot := rfl
@[simp] theorem State.schedule_subStep (c : Config) (s : State) : (s.schedule c).subStep = s.subStep := rfl
@[simp] theorem State.schedule_sum (c : Config) (s : State) : (s.schedule c).sum = s.sum := rfl
@[simp] theorem State.schedule_now (c : Config) (s : State) : (s.schedule c).now = s.now := rfl
@[simp] theorem State.schedule_rst (c : Config) (s : State) : (s.schedule c).rst = s.rst := rfl
@[simp] theorem State.schedule_resets (c : Config) (s : State) : (s.schedule c).resets = s.resets := rfl
@[simp] theorem State.schedule_host (c : Config) (s : State) : (s.schedule c).host = s.host := rfl
@[simp] theorem State.schedule_bench (c : Config) (s : State) : (s.schedule c).bench = s.bench := rfl
@[simp] theorem State.schedule_draws (c : Config) (s : State) : (s.schedule c).draws = s.draws := rfl
@[simp] theorem State.schedule_log (c : Config) (s : State) : (s.schedule c).log = s.log := rfl

/-! ### State.setByte -/

@[simp] theorem State.setByte_frame (i : Fin 8) (v : Byte) (s : State) : (s.setByte i v).frame = s.frame.set i v := rfl
@[simp] theorem State.setByte_nextEdge (i : Fin 8) (v : Byte) (s : State) : (s.setByte i v).nextEdge = s.nextEdge := rfl
@[simp] theorem State.setByte_line (i : Fin 8) (v : Byte) (s : State) : (s.setByte i v).line = s.line := rfl
@[simp] theorem State.setByte_busy (i : Fin 8) (v : Byte) (s : State) : (s.setByte i v).busy = s.busy := rfl
@[simp] theorem State.setByte_errRange (i : Fin 8) (v : Byte) (s : State) : (s.setByte i v).errRange = s.errRange := rfl
@[simp] theorem State.setByte_slot (i : Fin 8) (v : Byte) (s : State) : (s.setByte i v).slot = s.slot := rfl
@[simp] theorem State.setByte_subStep (i : Fin 8) (v : Byte) (s : State) : (s.setByte i v).subStep = s.subStep := rfl
@[simp] theorem State.setByte_sum (i : Fin 8) (v : Byte) (s : State) : (s.setByte i v).sum = s.sum := rfl
@[simp] theorem State.setByte_now (i : Fin 8) (v : Byte) (s : State) : (s.setByte i v).now = s.now := rfl
@[simp] theorem State.setByte_rst (i : Fin 8) (v : Byte) (s : State) : (s.setByte i v).rst = s.rst := rfl
@[simp] theorem State.setByte_resets (i : Fin 8) (v : Byte) (s : State) : (s.setByte i v).resets = s.resets := rfl
@[simp] theorem State.setByte_host (i : Fin 8) (v : Byte) (s : State) : (s.setByte i v).host = s.host := rfl
@[simp] theorem State.setByte_bench (i : Fin 8) (v : Byte) (s : State) : (s.setByte i v).bench = s.bench := rfl
@[simp] theorem State.setByte_draws (i : Fin 8) (v : Byte) (s : State) : (s.setByte i v).draws = s.draws := rfl
@[simp] theorem State.setByte_log (i : Fin 8) (v : Byte) (s : State) : (s.setByte i v).log = s.log := rfl

/-! ### State.setValues -/

@[simp] theorem State.setValues_frame (p1 p2 p3 : Half) (s : State) : (s.setValues p1 p2 p3).frame = ((s.frame.setHalf 2 p1).setHalf 4 p2).setHalf 6 p3 := rfl
@[simp] theorem State.setValues_nextEdge (p1 p2 p3 : Half) (s : State) : (s.setValues p1 p2 p3).nextEdge = s.nextEdge := rfl
@[simp] theorem State.setValues_line (p1 p2 p3 : Half) (s : State) : (s.setValues p1 p2 p3).line = s.line := rfl
@[simp] theorem State.setValues_busy (p1 p2 p3 : Half) (s : State) : (s.setValues p1 p2 p3).busy = s.busy := rfl
@[simp] theorem State.setValues_errRange (p1 p2 p3 : Half) (s : State) : (s.setValues p1 p2 p3).errRange = s.errRange := rfl
@[simp] theorem State.setValues_slot (p1 p2 p3 : Half) (s : State) : (s.setValues p1 p2 p3).slot = s.slot := rfl
@[simp] theorem State.setValues_subStep (p1 p2 p3 : Half) (s : State) : (s.setValues p1 p2 p3).subStep = s.subStep := rfl
@[simp] theorem State.setValues_sum (p1 p2 p3 : Half) (s : State) : (s.setValues p1 p2 p3).sum = s.sum := rfl
@[simp] theorem State.setValues_now (p1 p2 p3 : Half) (s : State) : (s.setValues p1 p2 p3).now = s.now := rfl
@[simp] theorem State.setValues_rst (p1 p2 p3 : Half) (s : State) : (s.setValues p1 p2 p3).rst = s.rst := rfl
@[simp] theorem State.setValues_resets (p1 p2 p3 : Half) (s : State) : (s.setValues p1 p2 p3).resets = s.resets := rfl
@[simp] theorem State.setValues_host (p1 p2 p3 : Half) (s : State) : (s.setValues p1 p2 p3).host = s.host := rfl
@[simp] theorem State.setValues_bench (p1 p2 p3 : Half) (s : State) : (s.setValues p1 p2 p3).bench = s.bench := rfl
@[simp] theorem State.setValues_draws (p1 p2 p3 : Half) (s : State) : (s.setValues p1 p2 p3).draws = s.draws := rfl
@[simp] theorem State.setValues_log (p1 p2 p3 : Half) (s : State) : (s.setValues p1 p2 p3).log = s.log := rfl

/-! ### State.setFrame -/

@[simp] theorem State.setFrame_frame (f : Frame) (s : State) : (s.setFrame f).frame = f := rfl
@[simp] theorem State.setFrame_nextEdge (f : Frame) (s : State) : (s.setFrame f).nextEdge = s.nextEdge := rfl
@[simp] theorem State.setFrame_line (f : Frame) (s : State) : (s.setFrame f).line = s.line := rfl
@[simp] theorem State.setFrame_busy (f : Frame) (s : State) : (s.setFrame f).busy = s.busy := rfl
@[simp] theorem State.setFrame_errRange (f : Frame) (s : State) : (s.setFrame f).errRange = s.errRange := rfl
@[simp] theorem State.setFrame_slot (f : Frame) (s : State) : (s.setFrame f).slot = s.slot := rfl
@[simp] theorem State.setFrame_subStep (f : Frame) (s : State) : (s.setFrame f).subStep = s.subStep := rfl
@[simp] theorem State.setFrame_sum (f : Frame) (s : State) : (s.setFrame f).sum = s.sum := rfl
@[simp] theorem State.setFrame_now (f : Frame) (s : State) : (s.setFrame f).now = s.now := rfl
@[simp] theorem State.setFrame_rst (f : Frame) (s : State) : (s.setFrame f).rst = s.rst := rfl
@[simp] theorem State.setFrame_resets (f : Frame) (s : State) : (s.setFrame f).resets = s.resets := rfl
@[simp] theorem State.setFrame_host (f : Frame) (s : State) : (s.setFrame f).host = s.host := rfl
@[simp] theorem State.setFrame_bench (f : Frame) (s : State) : (s.setFrame f).bench = s.bench := rfl
@[simp] theorem State.setFrame_draws (f : Frame) (s : State) : (s.setFrame f).draws = s.draws := rfl
@[simp] theorem State.setFrame_log (f : Frame) (s : State) : (s.setFrame f).log = s.log := rfl

/-! ### State.setSum -/

@[simp] theorem State.setSum_frame (v : BitVec 11) (s : State) : (s.setSum v).frame = s.frame := rfl
@[simp] theorem State.setSum_nextEdge (v : BitVec 11) (s : State) : (s.setSum v).nextEdge = s.nextEdge := rfl
@[simp] theorem State.setSum_line (v : BitVec 11) (s : State) : (s.setSum v).line = s.line := rfl
@[simp] theorem State.setSum_busy (v : BitVec 11) (s : State) : (s.setSum v).busy = s.busy := rfl
@[simp] theorem State.setSum_errRange (v : BitVec 11) (s : State) : (s.setSum v).errRange = s.errRange := rfl
@[simp] theorem State.setSum_slot (v : BitVec 11) (s : State) : (s.setSum v).slot = s.slot := rfl
@[simp] theorem State.setSum_subStep (v : BitVec 11) (s : State) : (s.setSum v).subStep = s.subStep := rfl
@[simp] theorem State.setSum_sum (v : BitVec 11) (s : State) : (s.setSum v).sum = v := rfl
@[simp] theorem State.setSum_now (v : BitVec 11) (s : State) : (s.setSum v).now = s.now := rfl
@[simp] theorem State.setSum_rst (v : BitVec 11) (s : State) : (s.setSum v).rst = s.rst := rfl
@[simp] theorem State.setSum_resets (v : BitVec 11) (s : State) : (s.setSum v).resets = s.resets := rfl
@[simp] theorem State.setSum_host (v : BitVec 11) (s : State) : (s.setSum v).host = s.host := rfl
@[simp] theorem State.setSum_bench (v : BitVec 11) (s : State) : (s.setSum v).bench = s.bench := rfl
@[simp] theorem State.setSum_draws (v : BitVec 11) (s : State) : (s.setSum v).draws = s.draws := rfl
@[simp] theorem State.setSum_log (v : BitVec 11) (s : State) : (s.setSum v).log = s.log := rfl

/-! ### State.setPosition -/

@[simp] theorem State.setPosition_frame (k : BitVec 7) (t : SubStep) (s : State) : (s.setPosition k t).frame = s.frame := rfl
@[simp] theorem State.setPosition_nextEdge (k : BitVec 7) (t : SubStep) (s : State) : (s.setPosition k t).nextEdge = s.nextEdge := rfl
@[simp] theorem State.setPosition_line (k : BitVec 7) (t : SubStep) (s : State) : (s.setPosition k t).line = s.line := rfl
@[simp] theorem State.setPosition_busy (k : BitVec 7) (t : SubStep) (s : State) : (s.setPosition k t).busy = s.busy := rfl
@[simp] theorem State.setPosition_errRange (k : BitVec 7) (t : SubStep) (s : State) : (s.setPosition k t).errRange = s.errRange := rfl
@[simp] theorem State.setPosition_slot (k : BitVec 7) (t : SubStep) (s : State) : (s.setPosition k t).slot = k := rfl
@[simp] theorem State.setPosition_subStep (k : BitVec 7) (t : SubStep) (s : State) : (s.setPosition k t).subStep = t := rfl
@[simp] theorem State.setPosition_sum (k : BitVec 7) (t : SubStep) (s : State) : (s.setPosition k t).sum = s.sum := rfl
@[simp] theorem State.setPosition_now (k : BitVec 7) (t : SubStep) (s : State) : (s.setPosition k t).now = s.now := rfl
@[simp] theorem State.setPosition_rst (k : BitVec 7) (t : SubStep) (s : State) : (s.setPosition k t).rst = s.rst := rfl
@[simp] theorem State.setPosition_resets (k : BitVec 7) (t : SubStep) (s : State) : (s.setPosition k t).resets = s.resets := rfl
@[simp] theorem State.setPosition_host (k : BitVec 7) (t : SubStep) (s : State) : (s.setPosition k t).host = s.host := rfl
@[simp] theorem State.setPosition_bench (k : BitVec 7) (t : SubStep) (s : State) : (s.setPosition k t).bench = s.bench := rfl
@[simp] theorem State.setPosition_draws (k : BitVec 7) (t : SubStep) (s : State) : (s.setPosition k t).draws = s.draws := rfl
@[simp] theorem State.setPosition_log (k : BitVec 7) (t : SubStep) (s : State) : (s.setPosition k t).log = s.log := rfl

/-! ### State.addDraws -/

@[simp] theorem State.addDraws_frame (n : Nat) (s : State) : (s.addDraws n).frame = s.frame := rfl
@[simp] theorem State.addDraws_nextEdge (n : Nat) (s : State) : (s.addDraws n).nextEdge = s.nextEdge := rfl
@[simp] theorem State.addDraws_line (n : Nat) (s : State) : (s.addDraws n).line = s.line := rfl
@[simp] theorem State.addDraws_busy (n : Nat) (s : State) : (s.addDraws n).busy = s.busy := rfl
@[simp] theorem State.addDraws_errRange (n : Nat) (s : State) : (s.addDraws n).errRange = s.errRange := rfl
@[simp] theorem State.addDraws_slot (n : Nat) (s : State) : (s.addDraws n).slot = s.slot := rfl
@[simp] theorem State.addDraws_subStep (n : Nat) (s : State) : (s.addDraws n).subStep = s.subStep := rfl
@[simp] theorem State.addDraws_sum (n : Nat) (s : State) : (s.addDraws n).sum = s.sum := rfl
@[simp] theorem State.addDraws_now (n : Nat) (s : State) : (s.addDraws n).now = s.now := rfl
@[simp] theorem State.addDraws_rst (n : Nat) (s : State) : (s.addDraws n).rst = s.rst := rfl
@[simp] theorem State.addDraws_resets (n : Nat) (s : State) : (s.addDraws n).resets = s.resets := rfl
@[simp] theorem State.addDraws_host (n : Nat) (s : State) : (s.addDraws n).host = s.host := rfl
@[simp] theorem State.addDraws_bench (n : Nat) (s : State) : (s.addDraws n).bench = s.bench := rfl
@[simp] theorem State.addDraws_draws (n : Nat) (s : State) : (s.addDraws n).draws = s.draws + n := rfl
@[simp] theorem State.addDraws_log (n : Nat) (s : State) : (s.addDraws n).log = s.log := rfl

/-! ### State.acceptWord -/

@[simp] theorem State.acceptWord_frame (p : Presented) (rest : List Presented) (s : State) : (s.acceptWord p rest).frame = s.frame := rfl
@[simp] theorem State.acceptWord_nextEdge (p : Presented) (rest : List Presented) (s : State) : (s.acceptWord p rest).nextEdge = s.nextEdge := rfl
@[simp] theorem State.acceptWord_line (p : Presented) (rest : List Presented) (s : State) : (s.acceptWord p rest).line = s.line := rfl
@[simp] theorem State.acceptWord_busy (p : Presented) (rest : List Presented) (s : State) : (s.acceptWord p rest).busy = s.busy := rfl
@[simp] theorem State.acceptWord_errRange (p : Presented) (rest : List Presented) (s : State) : (s.acceptWord p rest).errRange = s.errRange := rfl
@[simp] theorem State.acceptWord_slot (p : Presented) (rest : List Presented) (s : State) : (s.acceptWord p rest).slot = s.slot := rfl
@[simp] theorem State.acceptWord_subStep (p : Presented) (rest : List Presented) (s : State) : (s.acceptWord p rest).subStep = s.subStep := rfl
@[simp] theorem State.acceptWord_sum (p : Presented) (rest : List Presented) (s : State) : (s.acceptWord p rest).sum = s.sum := rfl
@[simp] theorem State.acceptWord_now (p : Presented) (rest : List Presented) (s : State) : (s.acceptWord p rest).now = acceptTime s p := rfl
@[simp] theorem State.acceptWord_rst (p : Presented) (rest : List Presented) (s : State) : (s.acceptWord p rest).rst = s.rst := rfl
@[simp] theorem State.acceptWord_resets (p : Presented) (rest : List Presented) (s : State) : (s.acceptWord p rest).resets = s.resets := rfl
@[simp] theorem State.acceptWord_host (p : Presented) (rest : List Presented) (s : State) : (s.acceptWord p rest).host = rest := rfl
@[simp] theorem State.acceptWord_bench (p : Presented) (rest : List Presented) (s : State) : (s.acceptWord p rest).bench = s.bench := rfl
@[simp] theorem State.acceptWord_draws (p : Presented) (rest : List Presented) (s : State) : (s.acceptWord p rest).draws = s.draws := rfl
@[simp] theorem State.acceptWord_log (p : Presented) (rest : List Presented) (s : State) : (s.acceptWord p rest).log = s.log := rfl

/-! ### State.enterBenched -/

@[simp] theorem State.enterBenched_frame (b : Benched) (rest : List Benched) (s : State) : (s.enterBenched b rest).frame = s.frame := rfl
@[simp] theorem State.enterBenched_nextEdge (b : Benched) (rest : List Benched) (s : State) : (s.enterBenched b rest).nextEdge = s.nextEdge := rfl
@[simp] theorem State.enterBenched_line (b : Benched) (rest : List Benched) (s : State) : (s.enterBenched b rest).line = s.line := rfl
@[simp] theorem State.enterBenched_busy (b : Benched) (rest : List Benched) (s : State) : (s.enterBenched b rest).busy = s.busy := rfl
@[simp] theorem State.enterBenched_errRange (b : Benched) (rest : List Benched) (s : State) : (s.enterBenched b rest).errRange = s.errRange := rfl
@[simp] theorem State.enterBenched_slot (b : Benched) (rest : List Benched) (s : State) : (s.enterBenched b rest).slot = s.slot := rfl
@[simp] theorem State.enterBenched_subStep (b : Benched) (rest : List Benched) (s : State) : (s.enterBenched b rest).subStep = s.subStep := rfl
@[simp] theorem State.enterBenched_sum (b : Benched) (rest : List Benched) (s : State) : (s.enterBenched b rest).sum = s.sum := rfl
@[simp] theorem State.enterBenched_now (b : Benched) (rest : List Benched) (s : State) : (s.enterBenched b rest).now = benchTime s b := rfl
@[simp] theorem State.enterBenched_rst (b : Benched) (rest : List Benched) (s : State) : (s.enterBenched b rest).rst = s.rst := rfl
@[simp] theorem State.enterBenched_resets (b : Benched) (rest : List Benched) (s : State) : (s.enterBenched b rest).resets = s.resets := rfl
@[simp] theorem State.enterBenched_host (b : Benched) (rest : List Benched) (s : State) : (s.enterBenched b rest).host = s.host := rfl
@[simp] theorem State.enterBenched_bench (b : Benched) (rest : List Benched) (s : State) : (s.enterBenched b rest).bench = rest := rfl
@[simp] theorem State.enterBenched_draws (b : Benched) (rest : List Benched) (s : State) : (s.enterBenched b rest).draws = s.draws := rfl
@[simp] theorem State.enterBenched_log (b : Benched) (rest : List Benched) (s : State) : (s.enterBenched b rest).log = s.log := rfl

/-! ### State.setErrRange on the written fields -/

theorem State.setErrRange_errRange_wrap (c : Config) (b : Bool) (s : State) (h : c.rangePolicy = .wrap) :
    (s.setErrRange c b).errRange = false := by simp [State.setErrRange, h]

theorem State.setErrRange_errRange_fail (c : Config) (b : Bool) (s : State) (h : c.rangePolicy = .fail) :
    (s.setErrRange c b).errRange = b := by simp [State.setErrRange, h]

theorem State.setErrRange_log_wrap (c : Config) (b : Bool) (s : State) (h : c.rangePolicy = .wrap) :
    (s.setErrRange c b).log = s.log := by simp [State.setErrRange, h]

theorem State.setErrRange_log_fail (c : Config) (b : Bool) (s : State) (h : c.rangePolicy = .fail) :
    (s.setErrRange c b).log = logChange .errRange s.errRange b s.now s.log := by simp [State.setErrRange, h]

/-! ### logChange -/

@[simp] theorem logChange_same (port : Port) (b : Bool) (time : Time) (log : List PortEvent) :
    logChange port b b time log = log := by simp [logChange]

@[simp] theorem logChange_rise (port : Port) (time : Time) (log : List PortEvent) :
    logChange port false true time log = { time := time, port := port, level := true } :: log := by simp [logChange]

@[simp] theorem logChange_fall (port : Port) (time : Time) (log : List PortEvent) :
    logChange port true false time log = { time := time, port := port, level := false } :: log := by simp [logChange]

end Sys2Proof.Machine
end

