-- ==== Sys2Proof/Laws/Memory.lean ====
section
/-! SUPPORT. The Frame as registers and as memory: read after write, the canonical form of the address space, and that every
operation keeps it (R50 to R53). -/

namespace Sys2Proof.Machine

/-- Reading the byte just written. -/
@[simp] theorem Frame.get_set_same (f : Frame) (i : Fin 8) (v : Byte) : (f.set i v).get i = v := by
  fin_cases i <;> rfl

/-- A write leaves every other byte alone. -/
@[simp] theorem Frame.get_set_ne (f : Frame) (i j : Fin 8) (v : Byte) (h : j ≠ i) : (f.set i v).get j = f.get j := by
  fin_cases i <;> fin_cases j <;> first | rfl | exact absurd rfl h

/-- Writing back what a byte holds changes nothing (R58). -/
@[simp] theorem Frame.set_get (f : Frame) (i : Fin 8) : f.set i (f.get i) = f := by
  fin_cases i <;> rfl

/-- Two Frames with the same eight bytes are the same. -/
theorem Frame.ext_get (f g : Frame) (h : ∀ i, f.get i = g.get i) : f = g := by
  cases f; cases g
  simp only [Frame.mk.injEq]
  exact ⟨h 0, h 1, h 2, h 3, h 4, h 5, h 6, h 7⟩

/-- The byte at an offset below 8 is that register; no other address exists. -/
theorem State.readByte_of_lt (s : State) (i : Fin 8) : s.readByte i = some (s.frame.get i) := by
  fin_cases i <;> rfl

theorem State.readByte_of_ge (s : State) (addr : Nat) (h : 8 ≤ addr) : s.readByte addr = none := by
  have hne : ∀ k < 8, (addr == k) = false := fun k hk => by simp; omega
  simp [State.readByte, State.memory, List.lookup, hne]

/-- Memory as the bytes read: two states with the same Frame read the same at every address. -/
theorem State.readByte_congr {s t : State} (h : t.frame = s.frame) (addr : Nat) : t.readByte addr = s.readByte addr := by
  simp [State.readByte, State.memory, h]

/-- A byte written is read back, and every other address reads as before (R52, R56). -/
theorem State.readByte_setByte (s : State) (i : Fin 8) (v : Byte) (addr : Nat) :
    (s.setByte i v).readByte addr = if addr = i then some v else s.readByte addr := by
  by_cases hlt : addr < 8
  · have key := State.readByte_of_lt (s.setByte i v) ⟨addr, hlt⟩
    have key' := State.readByte_of_lt s ⟨addr, hlt⟩
    simp only at key key'
    rw [key, key']
    by_cases h : addr = i
    · simp [h]
    · have : (⟨addr, hlt⟩ : Fin 8) ≠ i := fun e => h (congrArg Fin.val e)
      simp [h, Frame.get_set_ne _ _ _ _ this]
  · have : addr ≠ i := by have := i.isLt; omega
    simp [this, State.readByte_of_ge _ _ (Nat.le_of_not_lt hlt)]

/-- The memory of every state has the canonical form. -/
theorem State.memory_wf (s : State) : Memory.wf s.memory = true := rfl

/-- So has the memory right after reset. -/
theorem State.reset_memory_wf : Memory.wf State.reset.memory = true := State.memory_wf _

/-- Every write of a byte keeps it. -/
theorem State.setByte_memory_wf (s : State) (i : Fin 8) (v : Byte) : Memory.wf (s.setByte i v).memory = true :=
  State.memory_wf _

/-- The six-byte write of SETDATA keeps it. -/
theorem State.setValues_memory_wf (s : State) (p1 p2 p3 : Half) : Memory.wf (s.setValues p1 p2 p3).memory = true :=
  State.memory_wf _

/-- Two states whose memories are equal as data have the same Frame. -/
theorem State.frame_eq_of_memory_eq {s t : State} (h : s.memory = t.memory) : s.frame = t.frame := by
  simp only [State.memory, List.cons.injEq, Prod.mk.injEq, true_and, and_true] at h
  obtain ⟨h0, h1, h2, h3, h4, h5, h6, h7⟩ := h
  cases hs : s.frame; cases ht : t.frame
  simp_all

/-- What a value field holds after it is written (R53, R85). -/
theorem Frame.val1_setHalf (f : Frame) (p1 p2 p3 : Half) : (((f.setHalf 2 p1).setHalf 4 p2).setHalf 6 p3).val1 = p1 := by
  have h : p1.extractLsb' 8 8 ++ p1.extractLsb' 0 8 = p1 := by
    apply BitVec.eq_of_toNat_eq
    have := p1.isLt
    simp only [BitVec.toNat_append, BitVec.extractLsb'_toNat, Nat.shiftRight_zero]
    rw [← Nat.shiftLeft_add_eq_or_of_lt (by omega), Nat.shiftLeft_eq, Nat.shiftRight_eq_div_pow]
    omega
  exact h

theorem Frame.val2_setHalf (f : Frame) (p1 p2 p3 : Half) : (((f.setHalf 2 p1).setHalf 4 p2).setHalf 6 p3).val2 = p2 :=
  Frame.val1_setHalf f p2 p2 p3

theorem Frame.val3_setHalf (f : Frame) (p1 p2 p3 : Half) : (((f.setHalf 2 p1).setHalf 4 p2).setHalf 6 p3).val3 = p3 :=
  Frame.val1_setHalf f p3 p2 p3

/-- SETDATA's write leaves DATATYPE and ADDRESS alone (R23). -/
theorem State.setValues_f0 (s : State) (p1 p2 p3 : Half) : (s.setValues p1 p2 p3).frame.f0 = s.frame.f0 := rfl

theorem State.setValues_f1 (s : State) (p1 p2 p3 : Half) : (s.setValues p1 p2 p3).frame.f1 = s.frame.f1 := rfl

end Sys2Proof.Machine
end

