-- ==== Sys2Proof/Laws/Ops.lean ====
section
/-! SUPPORT. One lemma for each shared operation that says what it can do: time, acceptance, reset, the bit-clock, the checksum, the
converter, and the inversion of exec. -/

namespace Sys2Proof.Machine

/-! ### Time -/

theorem laterOf_toNat (a b : Time) : (laterOf a b).toNat = max a.toNat b.toNat := by
  unfold laterOf
  split <;> rename_i h <;> simp only [BitVec.le_def] at h <;> omega

theorem laterOf_of_le {a b : Time} (h : a ≤ b) : laterOf a b = b := by simp [laterOf, h]

theorem laterOf_of_ge {a b : Time} (h : b ≤ a) : laterOf a b = a := by
  apply BitVec.eq_of_toNat_eq
  rw [laterOf_toNat]
  have := (BitVec.le_def).mp h
  omega

@[simp] theorem laterOf_self (a : Time) : laterOf a a = a := by simp [laterOf]

@[simp] theorem laterOf_zero (a : Time) : laterOf a 0 = a := laterOf_of_ge (BitVec.le_def.mpr (Nat.zero_le _))

theorem laterOf_zero_lit (a : Time) : laterOf a 0#64 = a := laterOf_zero a

@[simp] theorem us_zero : us 0 = 0 := rfl

theorem us_add (a b : Nat) : us (a + b) = us a + us b := by simp [us, BitVec.ofNat_add]

/-- A sum of times that does not pass 2^64 is the plain sum (R150). -/
theorem add_us_toNat {t : Time} {n : Nat} (h : t.toNat + n < 2 ^ 64) : (t + us n).toNat = t.toNat + n := by
  have hn : n < 2 ^ 64 := by omega
  simp only [us, BitVec.toNat_add, BitVec.toNat_ofNat]
  omega

/-! ### Acceptance and the inversion of exec -/

theorem accepts_iff (s : State) : s.accepts = true ↔ s.busy = false ∧ s.rst = false := by simp [State.accepts]

theorem acceptCommand_of_accepts {s : State} (h : s.accepts = true) (f : State → State) :
    acceptCommand s f = .next (f s) := by simp [acceptCommand, h]

theorem acceptCommand_of_not {s : State} (h : s.accepts = false) (f : State → State) : acceptCommand s f = .next s := by
  simp [acceptCommand, h]

/-- A command answers a next state: its effect, or the same state where it is not accepted. -/
theorem acceptCommand_cases (s : State) (f : State → State) :
    (s.accepts = true ∧ acceptCommand s f = .next (f s)) ∨ (s.accepts = false ∧ acceptCommand s f = .next s) := by
  cases h : s.accepts
  · exact .inr ⟨rfl, acceptCommand_of_not h f⟩
  · exact .inl ⟨rfl, acceptCommand_of_accepts h f⟩

theorem enterMicro_of_released {s : State} (h : s.rst = false) (f : State → State) : enterMicro s f = .next (f s) := by
  simp [enterMicro, h]

theorem enterMicro_cases (s : State) (f : State → State) :
    (s.rst = false ∧ enterMicro s f = .next (f s)) ∨ (s.rst = true ∧ enterMicro s f = .next s) := by
  cases h : s.rst
  · exact .inl ⟨rfl, enterMicro_of_released h f⟩
  · exact .inr ⟨rfl, by simp [enterMicro, h]⟩

/-- The effect of an operation, as a function of the state. -/
def effect : Instr → State → State
  | .init => initBlock Config.hardware
  | .setaddr addr => State.setByte 1 addr
  | .settype kind => State.setByte 0 kind.raw
  | .setdata t h v => setData Config.hardware t h v
  | .send => sendFrame Config.hardware
  | .sendbit v => sendBit Config.hardware v
  | .sendbyte b => sendByte Config.hardware b
  | .eofmark => eofMark Config.hardware

/-- A command that is accepted has its effect (R198). -/
theorem exec_command {i : Instr} {s : State} (hi : i.issuedBy .host = true) (hb : s.busy = false) (hr : s.rst = false) :
    exec i s = .next (effect i s) := by
  have h := (accepts_iff s).2 ⟨hb, hr⟩
  cases i <;> first | exact acceptCommand_of_accepts h _ | simp [Instr.issuedBy] at hi

/-- A micro-operation has its effect unless `rst` is asserted (R210). -/
theorem exec_micro {i : Instr} {s : State} (hi : i.issuedBy .sequencer = true) (hr : s.rst = false) :
    exec i s = .next (effect i s) := by
  cases i <;> first | exact enterMicro_of_released hr _ | simp [Instr.issuedBy] at hi

/-- What exec can answer: always a next state, which is the operation's effect or the same state. -/
theorem exec_cases (i : Instr) (s : State) : exec i s = .next (effect i s) ∨ exec i s = .next s := by
  cases i with
  | init => exact (acceptCommand_cases s _).elim (fun h => .inl h.2) fun h => .inr h.2
  | setaddr addr => exact (acceptCommand_cases s _).elim (fun h => .inl h.2) fun h => .inr h.2
  | settype kind => exact (acceptCommand_cases s _).elim (fun h => .inl h.2) fun h => .inr h.2
  | setdata t h v => exact (acceptCommand_cases s _).elim (fun h => .inl h.2) fun h => .inr h.2
  | send => exact (acceptCommand_cases s _).elim (fun h => .inl h.2) fun h => .inr h.2
  | sendbit v => exact (enterMicro_cases s _).elim (fun h => .inl h.2) fun h => .inr h.2
  | sendbyte b => exact (enterMicro_cases s _).elim (fun h => .inl h.2) fun h => .inr h.2
  | eofmark => exact (enterMicro_cases s _).elim (fun h => .inl h.2) fun h => .inr h.2

/-! ### Reset -/

/-- What `rst` forces, all fields at once, in the hardware's configuration (R210, R211). -/
theorem resetBlock_eq (s : State) :
    s.resetBlock Config.hardware =
      { s with
        frame := Frame.reset, nextEdge := 0, line := false, busy := false, errRange := false, slot := 0, subStep := .wait,
        sum := Config.sumReset,
        log := logChange .busy s.busy false s.now (logChange .line s.line false s.now s.log) } := rfl

/-! ### The bit-clock -/

/-- Steps 1 to 3 of SENDBIT, all fields at once (R145, R152). -/
theorem openPulse_eq (c : Config) (l : Latency) (s : State) :
    openPulse c l s =
      { s with
        now := laterOf s.now s.nextEdge + us l.dw + us l.ds
        line := true
        nextEdge := laterOf s.now s.nextEdge + us l.dw + us l.ds + us c.total
        log := logChange .line s.line true (laterOf s.now s.nextEdge + us l.dw) s.log } := rfl

/-- Steps 4 and 5 of SENDBIT, all fields at once (R145, R152). -/
theorem closePulse_eq (c : Config) (l : Latency) (v : Bool) (s : State) :
    closePulse c l v s =
      { s with
        now := s.now + us (pulseWidth c v) + us l.dd
        line := false
        log := logChange .line s.line false (s.now + us (pulseWidth c v) + us l.dd) s.log } := rfl

/-- SENDBIT with no latency, all fields at once (R145). -/
theorem sendBit_eq (c : Config) (hl : c.lat = Latency.zero) (v : Bool) (s : State) :
    sendBit c v s =
      { s with
        now := firstRise s + us (pulseWidth c v)
        line := false
        nextEdge := firstRise s + us c.total
        log :=
          { time := firstRise s + us (pulseWidth c v), port := .line, level := false } ::
            logChange .line s.line true (firstRise s) s.log } := by
  simp [sendBit, sendBitWith, closePulse_eq, openPulse_eq, hl, Latency.zero, firstRise]

/-- SENDBIT of this hardware, all fields at once (R145). -/
theorem sendBit_hardware_eq (v : Bool) (s : State) :
    sendBit Config.hardware v s =
      { s with
        now := firstRise s + us (pulseWidth Config.hardware v)
        line := false
        nextEdge := firstRise s + us 2000
        log :=
          { time := firstRise s + us (pulseWidth Config.hardware v), port := .line, level := false } ::
            logChange .line s.line true (firstRise s) s.log } :=
  sendBit_eq Config.hardware Config.hardware_lat v s

/-! ### The checksum -/

theorem byteSum_cons (b : Byte) (bs : List Byte) : byteSum (b :: bs) = b.toNat + byteSum bs := by simp [byteSum]

/-- The sum of `n` bytes is at most 255 × `n` (R161). -/
theorem byteSum_le (bs : List Byte) : byteSum bs ≤ 255 * bs.length := by
  induction bs with
  | nil => simp [byteSum]
  | cons b bs ih => rw [byteSum_cons, List.length_cons]; have := b.isLt; omega

/-- Adding a byte to `SUM` loses no carry while 11 bits hold the result (R33, R161). -/
theorem accumulate_sum_toNat (b : Byte) (s : State) (h : s.sum.toNat + b.toNat < 2 ^ 11) :
    (s.accumulate b).sum.toNat = s.sum.toNat + b.toNat := by
  have hb := b.isLt
  simp only [State.accumulate, State.setSum_sum, BitVec.toNat_add, BitVec.toNat_setWidth]
  omega

/-- The checksum byte formed from the full sum is the checksum of the Frame (R160, R163). -/
theorem formChecksum_of_sum (f : Frame) (sum : BitVec 11) (h : sum.toNat = byteSum f.bytes) :
    formChecksum sum = frameChecksum f := by simp [formChecksum, frameChecksum, h]

/-! ### The converter -/

@[simp] theorem storedPattern_integer (i : Int) (n : Nat) : storedPattern (.integer i) n = (u16 i, 0) := rfl

@[simp] theorem storedPattern_nonfinite (n : Nat) : storedPattern .nonfinite n = (Config.freeHalf n, 1) := rfl

/-- SETDATA in the hardware's configuration writes the six value bytes and counts its draws, nothing else (R130). -/
theorem setData_hardware_eq (t h v : Single) (s : State) :
    ∃ p1 p2 p3 n, setData Config.hardware t h v s = (s.setValues p1 p2 p3).addDraws n := by
  exact ⟨_, _, _, _, rfl⟩

/-- SETDATA of three finite conversions stores their patterns (R126, R130). -/
theorem setData_hardware_integers {t h v : Single} {i1 i2 i3 : Int} (s : State)
    (h1 : fx .binary32Stepwise t Config.offsetT = .integer i1) (h2 : fx .binary32Stepwise h Config.offsetH = .integer i2)
    (h3 : fx .binary32Stepwise v Config.offsetV = .integer i3) :
    setData Config.hardware t h v s = s.setValues (u16 i1) (u16 i2) (u16 i3) := by
  have e : setData Config.hardware t h v s = setDataWrap (fx .binary32Stepwise t Config.offsetT)
      (fx .binary32Stepwise h Config.offsetH) (fx .binary32Stepwise v Config.offsetV) s := rfl
  rw [e, h1, h2, h3]
  rfl

end Sys2Proof.Machine
end

