-- ==== Sys2Proof/Laws/PerInstr.lean ====
section
/-! SUPPORT. The family TableRow: the encoded word of every instruction has the bits its row of the opcode table fixes. -/

namespace Sys2Proof.Laws

/-- A word against the bits a row of the opcode table fixes: `word && mask = match`. -/
def matchesRow (code : Code) (mask value : Nat) : Bool :=
  match code with
  | .command cw => decide (cw &&& BitVec.ofNat 104 mask = BitVec.ofNat 104 value)
  | .micro uop => decide (uop &&& BitVec.ofNat 10 mask = BitVec.ofNat 10 value)

/-- The row's `mask` and `match` in spec/opcode_table.json; for the micro-operations the fixed bits of the row's pattern. -/
def TableRow.maskAndMatch : Instr → Nat × Nat
  | .init => (0xFF000000000000000000000000, 0x00000000000000000000000000)
  | .setaddr _ => (0xFF000000000000000000000000, 0x01000000000000000000000000)
  | .settype _ => (0xFF0000000000000000000000FE, 0x02000000000000000000000000)
  | .setdata _ _ _ => (0xFF000000000000000000000000, 0x03000000000000000000000000)
  | .send => (0xFF000000000000000000000000, 0x04000000000000000000000000)
  | .sendbit _ => (0b1111111110, 0b0000000000)
  | .sendbyte _ => (0b1100000000, 0b0100000000)
  | .eofmark => (0b1111111111, 0b1000000000)

/-- The encoded word has the bits its row fixes. -/
def TableRow.Statement (i : Instr) : Prop :=
  matchesRow (encode i) (TableRow.maskAndMatch i).1 (TableRow.maskAndMatch i).2 = true

theorem commandWord_and (op op' : Byte) (a b c a' b' c' : Single) :
    commandWord op a b c &&& commandWord op' a' b' c' = commandWord (op &&& op') (a &&& a') (b &&& b') (c &&& c') := by
  unfold commandWord
  rw [BitVec.and_append, BitVec.and_append, BitVec.and_append]

/-- Every command row but SETTYPE's fixes the eight bits of `OP` only. -/
theorem commandWord_matches (op : Byte) (a b c : Single) (value : Nat)
    (h : commandWord op 0 0 0 = BitVec.ofNat 104 value) :
    matchesRow (.command (commandWord op a b c)) 0xFF000000000000000000000000 value = true := by
  have hmask : BitVec.ofNat 104 0xFF000000000000000000000000 = commandWord 0xFF#8 0 0 0 := by decide
  have hop : op &&& 0xFF#8 = op := BitVec.and_allOnes
  have hzero : ∀ x : Single, x &&& 0 = 0 := fun x => BitVec.and_zero
  simp only [matchesRow, hmask, commandWord_and, hop, hzero, h, decide_true]

theorem TableRow.init : TableRow.Statement .init := by unfold TableRow.Statement; decide

theorem TableRow.setaddr (addr : Byte) : TableRow.Statement (.setaddr addr) :=
  commandWord_matches 0x01#8 0 0 (addr.setWidth 32) 0x01000000000000000000000000 (by decide)

theorem TableRow.settype (kind : DataType) : TableRow.Statement (.settype kind) := by
  unfold TableRow.Statement
  cases kind <;> decide

theorem TableRow.setdata (temp humidity voltage : Single) : TableRow.Statement (.setdata temp humidity voltage) :=
  commandWord_matches 0x03#8 temp humidity voltage 0x03000000000000000000000000 (by decide)

theorem TableRow.send : TableRow.Statement .send := by unfold TableRow.Statement; decide

theorem TableRow.sendbit (v : Bool) : TableRow.Statement (.sendbit v) := by
  unfold TableRow.Statement
  cases v <;> decide

theorem TableRow.sendbyte (b : Byte) : TableRow.Statement (.sendbyte b) := by
  have hmask : BitVec.ofNat 10 0b1100000000 = microLabel 3#2 0#8 := by decide
  have hvalue : BitVec.ofNat 10 0b0100000000 = microLabel 1#2 0#8 := by decide
  have h : microLabel 1#2 b &&& microLabel 3#2 0#8 = microLabel 1#2 0#8 := by
    unfold microLabel
    rw [BitVec.and_append, BitVec.and_zero]
    rfl
  show decide (microLabel 1#2 b &&& BitVec.ofNat 10 0b1100000000 = BitVec.ofNat 10 0b0100000000) = true
  rw [hmask, hvalue]
  exact decide_eq_true h

theorem TableRow.eofmark : TableRow.Statement .eofmark := by unfold TableRow.Statement; decide

end Sys2Proof.Laws
end

