-- ==== Sys2Proof/Laws/Sequencer.lean ====
section
/-! SUPPORT. The sequencer and the step: the induction over sub-steps packaged once, what a sub-step and a whole SEND leave alone,
and the inversion of one step of the machine. -/

namespace Sys2Proof.Machine

/-! ### The sequencer -/

/-- A property that every sub-step of a running SEND keeps is kept by the sequencer. -/
theorem runSequencer_induction {c : Config} (P : State → Prop) (hstep : ∀ s, P s → s.busy = true → P (sequencerStep c s)) :
    ∀ (n : Nat) (s : State), P s → P (runSequencer c n s) := by
  intro n
  induction n with
  | zero => exact fun s h => h
  | succ n ih =>
    intro s h
    unfold runSequencer
    split
    · rename_i hc
      simp only [Bool.and_eq_true] at hc
      exact ih _ (hstep s h hc.1)
    · exact h

/-- The sequencer does nothing where no SEND runs. -/
theorem runSequencer_idle (c : Config) (n : Nat) (s : State) (h : s.busy = false) : runSequencer c n s = s := by
  cases n <;> simp [runSequencer, h]

/-- One sub-step of the sequencer, where a SEND runs and no reset is due before its end. -/
theorem runSequencer_succ (c : Config) (n : Nat) (s : State) (hb : s.busy = true)
    (hr : s.resetDue (sequencerStep c s).now = false) :
    runSequencer c (n + 1) s = runSequencer c n (sequencerStep c s) := by
  simp [runSequencer, hb, hr]

/-- With no pulse on `rst` to come, a reset is never due. -/
theorem resetDue_of_nil {s : State} (h : s.resets = []) (t : Time) : s.resetDue t = false := by simp [State.resetDue, h]

/-- A reset is due by a time exactly where the next pulse is asserted at or before it. -/
theorem resetDue_cons {s : State} {p : ResetPulse} {rest : List ResetPulse} (h : s.resets = p :: rest) (t : Time) :
    s.resetDue t = decide (p.assertAt ≤ t) := by simp [State.resetDue, h]

/-- What no operation of the transmitter touches: the Frame, `ERR_RANGE`, the port `rst` and what is to come on it, what the host
presents, the bench, and the draws (R24, R57, R177). -/
def SameSurroundings (s t : State) : Prop :=
  t.frame = s.frame ∧ t.errRange = s.errRange ∧ t.rst = s.rst ∧ t.resets = s.resets ∧ t.host = s.host ∧ t.bench = s.bench ∧
    t.draws = s.draws

theorem SameSurroundings.of_eq {s t : State} (hf : t.frame = s.frame) (he : t.errRange = s.errRange) (hr : t.rst = s.rst)
    (hp : t.resets = s.resets) (hh : t.host = s.host) (hb : t.bench = s.bench) (hd : t.draws = s.draws) : SameSurroundings s t :=
  ⟨hf, he, hr, hp, hh, hb, hd⟩

@[refl] theorem SameSurroundings.refl (s : State) : SameSurroundings s s := ⟨rfl, rfl, rfl, rfl, rfl, rfl, rfl⟩

theorem SameSurroundings.trans {s t u : State} (h : SameSurroundings s t) (k : SameSurroundings t u) : SameSurroundings s u := by
  obtain ⟨h1, h2, h3, h4, h5, h6, h7⟩ := h
  obtain ⟨k1, k2, k3, k4, k5, k6, k7⟩ := k
  exact ⟨k1.trans h1, k2.trans h2, k3.trans h3, k4.trans h4, k5.trans h5, k6.trans h6, k7.trans h7⟩

theorem delay_surroundings (d : Nat) (s : State) : SameSurroundings s (s.delay d) := ⟨rfl, rfl, rfl, rfl, rfl, rfl, rfl⟩

theorem setLine_surroundings (b : Bool) (s : State) : SameSurroundings s (s.setLine b) := ⟨rfl, rfl, rfl, rfl, rfl, rfl, rfl⟩

theorem setSum_surroundings (v : BitVec 11) (s : State) : SameSurroundings s (s.setSum v) := ⟨rfl, rfl, rfl, rfl, rfl, rfl, rfl⟩

theorem setPosition_surroundings (k : BitVec 7) (t : SubStep) (s : State) : SameSurroundings s (s.setPosition k t) :=
  ⟨rfl, rfl, rfl, rfl, rfl, rfl, rfl⟩

theorem setBusy_surroundings (b : Bool) (s : State) : SameSurroundings s (s.setBusy b) := ⟨rfl, rfl, rfl, rfl, rfl, rfl, rfl⟩

theorem openPulse_surroundings (c : Config) (l : Latency) (s : State) : SameSurroundings s (openPulse c l s) :=
  ⟨rfl, rfl, rfl, rfl, rfl, rfl, rfl⟩

theorem closePulse_surroundings (c : Config) (l : Latency) (v : Bool) (s : State) : SameSurroundings s (closePulse c l v s) :=
  ⟨rfl, rfl, rfl, rfl, rfl, rfl, rfl⟩

theorem sendBit_surroundings (c : Config) (v : Bool) (s : State) : SameSurroundings s (sendBit c v s) :=
  (openPulse_surroundings c c.lat s).trans (closePulse_surroundings c c.lat v _)

theorem sendBits_surroundings (c : Config) : ∀ (vs : List Bool) (s : State), SameSurroundings s (sendBits c vs s)
  | [], s => .refl s
  | [v], s => sendBit_surroundings c v s
  | v :: v' :: vs, s =>
    (sendBit_surroundings c v s).trans ((delay_surroundings _ _).trans (sendBits_surroundings c (v' :: vs) _))

theorem sendByte_surroundings (c : Config) (b : Byte) (s : State) : SameSurroundings s (sendByte c b s) :=
  sendBits_surroundings c _ s

theorem closeMarker_surroundings (c : Config) (s : State) : SameSurroundings s (closeMarker c s) :=
  (sendBit_surroundings c true s).trans (setLine_surroundings false _)

theorem eofMark_surroundings (c : Config) (s : State) : SameSurroundings s (eofMark c s) :=
  (openPulse_surroundings c c.lat s).trans ((delay_surroundings _ _).trans (closeMarker_surroundings c _))

theorem enterSlot_surroundings (c : Config) (s : State) : SameSurroundings s (enterSlot c s) := by
  unfold enterSlot
  split
  · split
    · exact setSum_surroundings _ s
    · exact .refl s
  · exact .refl s

theorem completeSlot_surroundings (c : Config) (s : State) : SameSurroundings s (completeSlot c s) := by
  unfold completeSlot
  split
  · exact (setPosition_surroundings _ _ s).trans (delay_surroundings _ _)
  · exact (setBusy_surroundings _ s).trans (setPosition_surroundings _ _ _)

theorem sequencerStep_surroundings (c : Config) (s : State) : SameSurroundings s (sequencerStep c s) := by
  unfold sequencerStep
  split
  · exact ((enterSlot_surroundings c s).trans (openPulse_surroundings c _ _)).trans (setPosition_surroundings _ _ _)
  · exact (closePulse_surroundings c _ _ s).trans (completeSlot_surroundings c _)
  · exact (delay_surroundings _ s).trans (setPosition_surroundings _ _ _)
  · exact (closeMarker_surroundings c s).trans (completeSlot_surroundings c _)

theorem acceptSend_surroundings (s : State) : SameSurroundings s (acceptSend s) :=
  ((setBusy_surroundings true s).trans (setPosition_surroundings _ _ _)).trans (setSum_surroundings _ _)

theorem sendFrame_surroundings (c : Config) (s : State) : SameSurroundings s (sendFrame c s) :=
  runSequencer_induction (SameSurroundings s) (fun t h _ => h.trans (sequencerStep_surroundings c t)) _ _
    (acceptSend_surroundings s)

/-! ### The bench -/

/-- No operation touches the bench: only a step that enters its next label takes one from it (log 8). -/
theorem effect_bench (i : Instr) (s : State) : (effect i s).bench = s.bench := by
  cases i with
  | send => exact (sendFrame_surroundings Config.hardware s).2.2.2.2.2.1
  | sendbyte b => exact (sendByte_surroundings Config.hardware b s).2.2.2.2.2.1
  | eofmark => exact (eofMark_surroundings Config.hardware s).2.2.2.2.2.1
  | sendbit v => exact (sendBit_surroundings Config.hardware v s).2.2.2.2.2.1
  | _ => rfl

theorem exec_bench {i : Instr} {s t : State} (h : exec i s = .next t) : t.bench = s.bench := by
  rcases exec_cases i s with e | e <;> rw [e] at h <;> cases h
  · exact effect_bench i s
  · rfl

/-! ### The inversion of a step -/

/-- A command word stands for a command: the host cannot issue a micro-operation (R93). -/
theorem decodeCommand_issuedBy {cw : CommandWord} {i : Instr} (h : decodeCommand cw = .ok i) : i.issuedBy .host = true := by
  unfold decodeCommand at h
  split at h
  case h_3 =>
    unfold decodeKind at h
    split at h <;> cases h <;> rfl
  all_goals cases h <;> rfl

/-- A label stands for a micro-operation: no command is one (R93). -/
theorem decodeMicro_issuedBy {uop : MicroLabel} {i : Instr} (h : decodeMicro uop = .ok i) : i.issuedBy .sequencer = true := by
  unfold decodeMicro at h
  split at h <;> cases h <;> rfl

/-- What a presented word can do: the command it stands for, or nothing (a reserved word). -/
theorem runWord_cases (cw : CommandWord) (s : State) :
    (∃ i, decodeCommand cw = .ok i ∧ i.issuedBy .host = true ∧ runWord cw s = exec i s) ∨
      ((∃ e, decodeCommand cw = .error e) ∧ runWord cw s = .next s) := by
  cases hd : decodeCommand cw with
  | ok i => exact .inl ⟨i, rfl, decodeCommand_issuedBy hd, by simp [runWord, hd]⟩
  | error e => exact .inr ⟨⟨e, rfl⟩, by simp [runWord, hd]⟩

/-- What a benched label can do: the micro-operation it stands for, or a refusal (a reserved label). -/
theorem runLabel_cases (uop : MicroLabel) (s : State) :
    (∃ i, decodeMicro uop = .ok i ∧ i.issuedBy .sequencer = true ∧ runLabel uop s = exec i s) ∨
      ((∃ e, decodeMicro uop = .error e) ∧ runLabel uop s = .refused (.reservedLabel uop)) := by
  cases hd : decodeMicro uop with
  | ok i => exact .inl ⟨i, rfl, decodeMicro_issuedBy hd, by simp [runLabel, hd]⟩
  | error e => exact .inr ⟨⟨e, rfl⟩, by simp [runLabel, hd]⟩

/-- Everything one step can do, in the order of precedence of R198: hold or release `rst`, assert it, go on with a running SEND, let a
microsecond pass, run the word the host presents, or, where there is a bench, its next label. -/
theorem step_cases (s : State) :
    (s.rst = true ∧ step s = .next (holdReset Config.hardware s)) ∨
      (s.rst = false ∧ s.resetNext ∧ step s = .next (assertReset Config.hardware s)) ∨
      (s.rst = false ∧ s.busy = true ∧ step s = .next (sequencerStep Config.hardware s)) ∨
      (s.rst = false ∧ s.busy = false ∧ s.bench = [] ∧ s.host = [] ∧ s.resets = [] ∧ step s = .next (idleTick s)) ∨
      (s.rst = false ∧ s.busy = false ∧ s.bench = [] ∧ ∃ p rest, s.host = p :: rest ∧ s.resetDue (acceptTime s p) = false ∧
        step s = runWord p.word (s.acceptWord p rest)) ∨
      (s.rst = false ∧ s.busy = false ∧ ∃ b rest, s.bench = b :: rest ∧ s.resetDue (benchTime s b) = false ∧
        step s = runLabel b.label (s.enterBenched b rest)) := by
  cases hrst : s.rst
  · refine .inr ?_
    cases hbusy : s.busy
    · cases hbench : s.bench with
      | nil =>
        cases hhost : s.host with
        | nil =>
          cases hres : s.resets with
          | nil =>
            refine .inr (.inr (.inl ⟨rfl, rfl, rfl, rfl, rfl, ?_⟩))
            simp [step, stepIdle, stepHost, hrst, hbusy, hbench, hhost, hres]
          | cons r rs =>
            refine .inl ⟨rfl, .inr (.inr (.inr (.inl ⟨hbusy, hbench, hhost, by simp [hres]⟩))), ?_⟩
            simp [step, stepIdle, stepHost, hrst, hbusy, hbench, hhost, hres]
        | cons p rest =>
          cases hdue : s.resetDue (acceptTime s p)
          · refine .inr (.inr (.inr (.inl ⟨rfl, rfl, rfl, p, rest, rfl, hdue, ?_⟩)))
            simp [step, stepIdle, stepHost, hrst, hbusy, hbench, hhost, hdue]
          · refine .inl ⟨rfl, .inr (.inr (.inl ⟨hbusy, hbench, p, rest, hhost, hdue⟩)), ?_⟩
            simp [step, stepIdle, stepHost, hrst, hbusy, hbench, hhost, hdue]
      | cons b rest =>
        cases hdue : s.resetDue (benchTime s b)
        · refine .inr (.inr (.inr (.inr ⟨rfl, rfl, b, rest, rfl, hdue, ?_⟩)))
          simp [step, stepIdle, hrst, hbusy, hbench, hdue]
        · refine .inl ⟨rfl, .inr (.inr (.inr (.inr ⟨hbusy, b, rest, hbench, hdue⟩))), ?_⟩
          simp [step, stepIdle, hrst, hbusy, hbench, hdue]
    · cases hdue : s.resetDue (sequencerStep Config.hardware s).now
      · refine .inr (.inl ⟨rfl, rfl, ?_⟩)
        simp [step, stepBusy, hrst, hbusy, hdue]
      · refine .inl ⟨rfl, .inr (.inl ⟨hbusy, hdue⟩), ?_⟩
        simp [step, stepBusy, hrst, hbusy, hdue]
  · exact .inl ⟨rfl, by simp [step, hrst]⟩

end Sys2Proof.Machine
end

