-- ==== Sys2Proof/Tests/Slice0.lean ====
section
/-! SUPPORT. Tests: the words of the spec's encodings, the checks of WellFormed, one or two steps for each operation with the results of
95_test_vectors.md, and for each obligation with hypotheses a witness that meets them. Every expected value is the spec's. -/

namespace Sys2Proof.Tests

open Sys2Proof Sys2Proof.Machine

-- One theorem after another: checking all of them at once takes a thread, and its stack, for each.
set_option Elab.async false

/-! ### Helpers -/

/-- The Frame of the source's scenario (95_test_vectors.md S1). -/
def scenarioFrame : Frame := ⟨0, 2, 238, 27, 144, 21, 74, 1⟩

/-- An idle block that holds a Frame, at time `now` with the deadline `next`. -/
def idleWith (f : Frame) (now next : Time) : State := { State.reset with frame := f, sum := 0, now := now, nextEdge := next }

/-- The scenario Frame, idle, time 0. -/
def scenario : State := idleWith scenarioFrame 0 0

/-- Frame bytes of 9 (95_test_vectors.md section 4). -/
def nines : State := idleWith ⟨9, 9, 9, 9, 9, 9, 9, 9⟩ 0 0

/-- A command word presented from the start on. -/
def presenting (cw : CommandWord) (s : State) : State := { s with host := [⟨0, cw⟩] }

/-- A label on the bench from the start on. -/
def benching (uop : MicroLabel) (s : State) : State := { s with bench := [⟨0, uop⟩] }

/-- With one pulse on `rst` to come. -/
def withReset (assertAt releaseAt : Time) (s : State) : State := { s with resets := [⟨assertAt, releaseAt⟩] }

/-- The next state of an outcome, or the fallback where there is none. -/
def nextOr (s : State) : Host.Outcome State Fault Refusal → State
  | .next t => t
  | .fault _ => s
  | .refused _ => s

/-- The state after an operation. -/
def after (i : Instr) (s : State) : State := nextOr s (exec i s)

/-- The state after a step. -/
def afterStep (s : State) : State := nextOr s (step s)

/-- A block built with `RANGE_POLICY = FAIL`. -/
def failing : Config := { Config.hardware with rangePolicy := .fail }

/-- A block with latencies. -/
def slow : Config := { Config.hardware with lat := ⟨3, 2, 4, 5⟩ }

/-! ### Decoding: words written out from the tables (R81, R93; 95_test_vectors.md section 2) -/

theorem test_decode_init : decodeCommand 0x00000000000000000000000000#104 = .ok .init := by decide
theorem test_decode_setaddr : decodeCommand 0x010000000000000000000000FF#104 = .ok (.setaddr 255) := by decide
theorem test_decode_setaddr_junk : decodeCommand 0x01DEADBEEF12345678ABCDEF07#104 = .ok (.setaddr 7) := by decide
theorem test_decode_settype_htv : decodeCommand 0x02000000000000000000000000#104 = .ok (.settype .htv) := by decide
theorem test_decode_settype_none : decodeCommand 0x02000000000000000000000001#104 = .ok (.settype .none) := by decide
theorem test_decode_setdata :
    decodeCommand 0x03C248147BBCA3D70A43A3D70A#104 = .ok (.setdata 0xC248147B 0xBCA3D70A 0x43A3D70A) := by decide
theorem test_decode_send_junk : decodeCommand 0x04FFFFFFFFFFFFFFFFFFFFFFFF#104 = .ok .send := by decide
theorem test_decode_sendbit : decodeMicro 0b0000000001#10 = .ok (.sendbit true) := by decide
theorem test_decode_sendbyte : decodeMicro 0b0111101110#10 = .ok (.sendbyte 238) := by decide
theorem test_decode_eofmark : decodeMicro 0b1000000000#10 = .ok .eofmark := by decide
theorem test_decode_reserved_opcodes :
    decodeCommand 0x05000000000000000000000000#104 = .error (.reservedOpcode 5) ∧
      decodeCommand 0xFF000000000000000000000000#104 = .error (.reservedOpcode 255) := by decide
theorem test_decode_reserved_kind :
    decodeCommand 0x02000000000000000000000002#104 = .error (.reservedKind 2) := by decide
theorem test_decode_reserved_labels :
    decodeMicro 0b1100000000#10 = .error (.reservedLabel 0b1100000000#10) ∧
      decodeMicro 0b0000000010#10 = .error (.reservedLabel 0b0000000010#10) ∧
      decodeMicro 0b1000000001#10 = .error (.reservedLabel 0b1000000001#10) := by decide

/-- The 13 bytes of `SETDATA 21.5, 55.2, 3.30`, `OP` first (R80, V-DATA-1). -/
theorem test_decode_bytes :
    decodeBytes [0x03, 0x41, 0xAC, 0x00, 0x00, 0x42, 0x5C, 0xCC, 0xCD, 0x40, 0x53, 0x33, 0x33] =
      .ok (.setdata 0x41AC0000 0x425CCCCD 0x40533333) := by decide

theorem test_decode_bytes_wrong_length : decodeBytes [0x04] = .error (.wrongLength 1) := by decide

/-- A row's word of more bits than the label has is no instruction. -/
theorem test_table_word :
    decodeTableWord 104 0x04000000000000000000000000 = some .send ∧ decodeTableWord 16 0b0111101110 = some (.sendbyte 238) ∧
      decodeTableWord 16 0b10000000000 = none := by decide

/-! ### WellFormed: every check refuses an ill-formed term -/

theorem test_hardware_wellFormed : Config.hardware.wellFormed = true := by decide
theorem test_refused_short_zero : { Config.hardware with short := 0 }.wellFormed = false := by decide
theorem test_refused_short_total : { Config.hardware with short := 2000 }.wellFormed = false := by decide
theorem test_refused_length : { Config.hardware with length := 7 }.wellFormed = false := by decide
theorem test_refused_slots : { Config.hardware with nsync := 45 }.wellFormed = false := by decide
theorem test_refused_total : { Config.hardware with total := 2 ^ 63 }.wellFormed = false := by decide
theorem test_refused_reserved_words :
    (Code.command 0x05000000000000000000000000#104).wellFormed = false ∧
      (Code.command 0x02000000000000000000000002#104).wellFormed = false ∧
      (Code.micro 0b1100000000#10).wellFormed = false := by decide
theorem test_refused_micro_from_host :
    (Instr.sendbit true).issuedBy .host = false ∧ (Instr.sendbyte 0).issuedBy .host = false ∧
      Instr.eofmark.issuedBy .host = false ∧ Instr.send.issuedBy .sequencer = false := by decide
theorem test_refused_programs :
    hostProgramWellFormed [0x04000000000000000000000000#104] = true ∧
      hostProgramWellFormed [0x05000000000000000000000000#104] = false := by decide

/-! ### The operations on the spec's vectors -/

/-- V-INIT-1. -/
theorem test_init : after .init (idleWith scenarioFrame 188700 190000) = idleWith scenarioFrame 188700 0 := by decide

/-- V-ADDR-1. -/
theorem test_setaddr : (after (.setaddr 2) nines).frame = ⟨9, 2, 9, 9, 9, 9, 9, 9⟩ := by decide

/-- V-TYPE-2. -/
theorem test_settype : (after (.settype .none) nines).frame = ⟨1, 9, 9, 9, 9, 9, 9, 9⟩ := by decide

/-- V-DATA-1. -/
theorem test_setdata :
    (after (.setdata 0x41AC0000 0x425CCCCD 0x40533333) nines).frame = ⟨9, 9, 238, 27, 144, 21, 74, 1⟩ := by decide +kernel

/-- V-DATA-2: negative values, and one that wraps. -/
theorem test_setdata_negative :
    (after (.setdata 0xC248147B 0xBCA3D70A 0x43A3D70A) scenario).frame = ⟨0, 2, 255, 255, 255, 255, 0, 128⟩ := by
  decide +kernel

/-- V-BIT-3. -/
theorem test_sendbit :
    after (.sendbit false) (idleWith scenarioFrame 9500 10000) =
      { idleWith scenarioFrame 11400 12000 with log := [⟨11400, .line, false⟩, ⟨10000, .line, true⟩] } := by decide

/-- V-BIT-7: the deadline wraps. -/
theorem test_sendbit_wrap :
    (after (.sendbit true) (idleWith scenarioFrame (-1000) (-1000))).now = -400 ∧
      (after (.sendbit true) (idleWith scenarioFrame (-1000) (-1000))).nextEdge = 1000 := by decide

/-- V-BYTE-1. -/
theorem test_sendbyte :
    (after (.sendbyte 238) scenario).now = 16600 ∧ (after (.sendbyte 238) scenario).nextEdge = 18000 ∧
      (after (.sendbyte 238) scenario).log.reverse.map (fun e => e.time.toNat) =
        [0, 1400, 2000, 2600, 4000, 4600, 6000, 6600, 8000, 9400, 10000, 10600, 12000, 12600, 14000, 14600, 16000, 16600] := by
  decide +kernel

/-- V-EOF-1. -/
theorem test_eofmark :
    after .eofmark (idleWith scenarioFrame 182600 184000) =
      { idleWith scenarioFrame 188600 190000 with log := [⟨188600, .line, false⟩, ⟨184000, .line, true⟩] } := by decide

/-- V-EOF-2: entered late. -/
theorem test_eofmark_late :
    after .eofmark (idleWith scenarioFrame 5000 100) =
      { idleWith scenarioFrame 9600 11000 with log := [⟨9600, .line, false⟩, ⟨5000, .line, true⟩] } := by decide

/-- V-SEND-1: the exit, the deadline, the sum, and the widths of the HIGH parts of slots 19 to 28 and of the marker. -/
theorem test_send :
    (after .send scenario).now = 188600 ∧ (after .send scenario).nextEdge = 190000 ∧ (after .send scenario).sum = 507 ∧
      (after .send scenario).busy = false ∧ ((after .send scenario).log.take 3).map (fun e => e.time.toNat) = [188600, 188600, 184000] ∧
      (((after .send scenario).log.reverse.drop 39).take 6).map (fun e => e.time.toNat) =
        [38000, 38600, 40000, 41400, 42000, 42600] := by
  decide +kernel

/-- V-RST-1: `rst` at 60300 ends the SEND there; the last edge before is the rising edge of slot 30, and the next step drops the line. -/
theorem test_send_reset :
    (after .send (withReset 60300 70000 scenario)).log.head? = some ⟨60000, .line, true⟩ ∧
      (afterStep (after .send (withReset 60300 70000 scenario))).log.take 2 = [⟨60300, .busy, false⟩, ⟨60300, .line, false⟩] := by
  decide +kernel

/-- V-CHK-2, V-CHK-4, V-CHK-8 and V-CHK-9. -/
theorem test_checksum :
    frameChecksum ⟨255, 255, 255, 255, 255, 255, 255, 255⟩ = 253 ∧ frameChecksum scenarioFrame = 0 ∧
      frameChecksum ⟨0, 250, 0, 0, 0, 0, 0, 0⟩ = 255 ∧ frameChecksum ⟨1, 255, 255, 255, 255, 255, 0, 128⟩ = 129 := by decide

/-- V-FX-11, V-FX-34 (the two numerics differ), V-FX-56 and V-FX-57. -/
theorem test_fx :
    fx .binary32Stepwise 0xC2C80000 50 = .integer (-4999) ∧ fx .binary32Stepwise 0x3C75C28F 0 = .integer 2 ∧
      fx .exactReal 0x3C75C28F 0 = .integer 1 ∧ fx .binary32Stepwise 0x7F7FC99E 0 = .nonfinite ∧
      fx .exactReal 0x7F7FC99E 0 = .integer 33999999521443642490773241379936429670400 ∧
      fx .binary32Stepwise 0x000116C2 50 = .integer 5000 := by
  decide +kernel

/-- V-DATA-4 and V-DATA-5: `RANGE_POLICY = FAIL`. -/
theorem test_range_failure :
    let failed := setData failing 0x43960000 0x425CCCCD 0x40533333 scenario
    failed.frame = scenarioFrame ∧ failed.errRange = true ∧
      (setData failing 0x41C80000 0x4236AE14 0x403CCCCD failed).frame = ⟨0, 2, 76, 29, 215, 17, 39, 1⟩ ∧
      (setData failing 0x41C80000 0x4236AE14 0x403CCCCD failed).errRange = false := by
  decide +kernel

/-- The latency vector of 95_test_vectors.md section 6 (R152). -/
theorem test_latencies :
    let s := sendBitWith Config.hardware ⟨3, 2, 4, 0⟩ false (idleWith scenarioFrame 9500 10000)
    s.nextEdge = 12005 ∧ s.log = [⟨11409, .line, false⟩, ⟨10003, .line, true⟩] ∧
      (sendBitWith Config.hardware ⟨1, 0, 0, 0⟩ true s).log.map (fun e => e.time.toNat) = [12606, 12006, 11409, 10003] := by
  decide

/-! ### Witnesses: for each obligation with hypotheses, concrete terms that meet all of them, at the boundaries of each clause -/

theorem test_witness_DecodedWordsAgreeOnTheUsedBits :
    decodeCommand 0x01DEADBEEF12345678ABCDEF07#104 = .ok (.setaddr 7) ∧ decodeMicro 0b1000000000#10 = .ok .eofmark := by decide

theorem test_witness_StepRunsTheDecodedOperation :
    let s := presenting 0x04000000000000000000000000#104 scenario
    s.rst = false ∧ s.busy = false ∧ s.bench = [] ∧ s.host = [⟨0, 0x04000000000000000000000000#104⟩] ∧
      s.resetDue (laterOf s.now 0) = false ∧ decodeCommand 0x04000000000000000000000000#104 = .ok .send := by decide

/-- The least and the greatest reserved `OP`, and SETTYPE with the least reserved kind; `decode` answers no operation for them. -/
theorem test_witness_ReservedCommandChangesNothing (cw : CommandWord)
    (hcw : cw = 0x05000000000000000000000000#104 ∨ cw = 0xFF000000000000000000000000#104 ∨ cw = 0x02000000000000000000000002#104) :
    (presenting cw scenario).rst = false ∧ (presenting cw scenario).busy = false ∧
      (presenting cw scenario).bench = [] ∧ (presenting cw scenario).resetDue (laterOf 0 0) = false ∧ ∀ i, decodeCommand cw ≠ .ok i := by
  have h : ∃ e, decodeCommand cw = .error e := by
    rcases hcw with rfl | rfl | rfl
    · exact ⟨.reservedOpcode 5, by decide⟩
    · exact ⟨.reservedOpcode 255, by decide⟩
    · exact ⟨.reservedKind 2, by decide⟩
  obtain ⟨e, he⟩ := h
  exact ⟨rfl, rfl, rfl, rfl, fun i hi => by simp [he] at hi⟩

theorem test_witness_ReservedLabelIsRefused :
    (benching 0b1100000000#10 scenario).rst = false ∧ (benching 0b1100000000#10 scenario).busy = false ∧
      (benching 0b1100000000#10 scenario).resetDue (laterOf 0 0) = false ∧
      (0b1100000000#10).extractLsb' 8 2 = 3#2 ∧
      (0b1000000001#10).extractLsb' 8 2 = 2#2 ∧ (0b1000000001#10).extractLsb' 0 8 ≠ 0#8 ∧
      (0b0000000010#10).extractLsb' 8 2 = 0#2 ∧ (0b0000000010#10).extractLsb' 1 7 ≠ 0#7 := by decide

theorem test_witness_IdleStepOnlyLetsTimePass :
    scenario.rst = false ∧ scenario.busy = false ∧ scenario.bench = [] ∧ scenario.host = [] ∧ scenario.resets = [] := by decide

theorem test_witness_OperationNotAcceptedHasNoEffect :
    Instr.issuedBy .host .send = true ∧ (acceptSend scenario).busy = true ∧ { scenario with rst := true }.rst = true := by decide

theorem test_witness_RunningSendHoldsTheFrameAndTheHost :
    (acceptSend scenario).rst = false ∧ (acceptSend scenario).busy = true ∧
      (acceptSend scenario).resetDue (sequencerStep Config.hardware (acceptSend scenario)).now = false ∧
      ∃ t, step (acceptSend scenario) = .next t := ⟨rfl, rfl, rfl, _, rfl⟩

/-- A step that changes `F[0]`, one that changes `F[1]`, and one that changes the values. -/
theorem test_witness_OnlyItsCommandWritesAFrameByte :
    (afterStep (presenting 0x02000000000000000000000001#104 nines)).frame.f0 ≠ 9 ∧
      (afterStep (presenting 0x01000000000000000000000002#104 nines)).frame.f1 ≠ 9 ∧
      (afterStep (presenting 0x0341AC0000425CCCCD40533333#104 nines)).frame.val1 ≠ nines.frame.val1 := by decide +kernel

/-- A step of a running SEND, and INIT, change the deadline. -/
theorem test_witness_OnlyTheBitClockWritesTheDeadline :
    (afterStep (acceptSend scenario)).nextEdge ≠ (acceptSend scenario).nextEdge ∧
      (afterStep (presenting 0x00000000000000000000000000#104 (idleWith scenarioFrame 0 190000))).nextEdge ≠ 190000 := by
  decide +kernel

/-- A reset that comes next: to an idle block, in the middle of a SEND, before a presented word, and before a benched label. -/
theorem test_witness_ResetAbandonsWhateverRuns :
    (withReset 50 60 scenario).resetNext ∧ (withReset 0 60 (acceptSend scenario)).resetNext ∧
      (withReset 50 60 (presenting 0 { scenario with now := 50 })).resetNext ∧
      (withReset 50 60 (benching 0 { scenario with now := 50 })).resetNext :=
  ⟨.inr (.inr (.inr (.inl ⟨rfl, rfl, rfl, by decide⟩))), .inr (.inl ⟨rfl, by decide⟩),
    .inr (.inr (.inl ⟨rfl, rfl, _, _, rfl, by decide⟩)), .inr (.inr (.inr (.inr ⟨rfl, _, _, rfl, by decide⟩)))⟩

theorem test_witness_ReleasedResetLeavesTheBlockIdle :
    { withReset 50 60 scenario with rst := true }.rst = true ∧
      { withReset 50 60 scenario with rst := true }.resets = [⟨50, 60⟩] := by decide

/-- Coherent states that step: an idle one and one in a running SEND. -/
theorem test_witness_EveryStepKeepsTheMachineCoherent :
    scenario.Coherent ∧ (∃ t, step scenario = .next t) ∧ (acceptSend scenario).Coherent ∧
      ∃ t, step (acceptSend scenario) = .next t :=
  ⟨by constructor <;> decide, ⟨_, rfl⟩, by constructor <;> decide, ⟨_, rfl⟩⟩

theorem test_witness_idle_block :
    scenario.busy = false ∧ scenario.rst = false ∧ scenario.line = false ∧ scenario.resets = [] := by decide

theorem test_witness_SetupCommandsAreIdempotent :
    (∃ t, exec (.setaddr 2) nines = .next t) ∧ (∃ t, exec (.settype .none) nines = .next t) ∧
      (∃ t, exec (.setdata 0x41AC0000 0x425CCCCD 0x40533333) nines = .next t) ∧
      fx .binary32Stepwise 0x41AC0000 50 ≠ .nonfinite ∧ fx .binary32Stepwise 0x425CCCCD 0 ≠ .nonfinite ∧
      fx .binary32Stepwise 0x40533333 0 ≠ .nonfinite :=
  ⟨⟨_, rfl⟩, ⟨_, rfl⟩, ⟨_, rfl⟩, by decide +kernel⟩

/-- Exponents 1, 254, 0 and 255 (with fraction 0 and not): the least and greatest of each clause. -/
theorem test_witness_OperandWordsDenoteBinary32Values :
    exponentField 0x00800000 = 1 ∧ exponentField 0x7F7FFFFF = 254 ∧ exponentField 0x000116C2 = 0 ∧
      exponentField 0x7F800000 = 255 ∧ fractionField 0x7F800000 = 0 ∧ exponentField 0x7FC00000 = 255 ∧
      fractionField 0x7FC00000 ≠ 0 := by decide

/-- The overflow threshold, and one unit below it. -/
theorem test_witness_RoundingIsToNearestEven :
    roundNearest (2 ^ 277 - 2 ^ 252) = .infinite false ∧ roundNearest (-(2 ^ 277 - 2 ^ 252)) = .infinite true ∧
      roundNearest (2 ^ 277 - 2 ^ 252 - 1) = .finite (2 ^ 277 - 2 ^ 253) ∧ roundNearest (2 ^ 24 + 1) = .finite (2 ^ 24) ∧
      roundNearest (2 ^ 24 + 3) = .finite (2 ^ 24 + 4) := by decide +kernel

/-- V-FX-N1 to N6: the last word before the overflow, the first one, the greatest finite one, and the first that is not finite. -/
theorem test_witness_ScaledValueOverflowsFromItsFirstWord :
    fx .binary32Stepwise 0x7C23D709 50 ≠ .nonfinite ∧ fx .binary32Stepwise 0xFC23D70A 0 = .nonfinite ∧
      fx .binary32Stepwise 0x7F7FFFFF 0 = .nonfinite ∧ fx .exactReal 0x7F7FFFFF 0 ≠ .nonfinite ∧
      fx .exactReal 0x7F800000 50 = .nonfinite := by decide +kernel

theorem test_witness_PatternsWrapModulo65536 :
    s16 (u16 (-32768)) = -32768 ∧ s16 (u16 32767) = 32767 ∧ u16 32768 = 0x8000 ∧ u16 (-32769) = 0x7FFF ∧ u16 65536 = 0 := by
  decide

/-- −0.5 gives 0, −1.5 gives −1, one unit above −1.5 and one below 0.5 give 0, −1 gives 0 (R128). -/
theorem test_witness_RoundingMisroundsNegativeValues :
    truncUnits (-(unitsPerOne / 2 : Nat) + unitsPerOne / 2) = 0 ∧ truncUnits (-(3 * (unitsPerOne / 2) : Nat) + unitsPerOne / 2) = -1 ∧
      truncUnits (-(3 * (unitsPerOne / 2) : Nat) + 1 + unitsPerOne / 2) = 0 ∧
      truncUnits ((unitsPerOne / 2 : Nat) - 1 + unitsPerOne / 2) = 0 ∧ truncUnits (-(unitsPerOne : Nat) + unitsPerOne / 2) = 0 := by
  decide +kernel

/-- A word of each command's form, with junk in the bits it does not use (R82). -/
theorem test_witness_operation_fields :
    (0x00FFFFFFFFFFFFFFFFFFFFFFFF#104).extractLsb' 96 8 = 0x00#8 ∧ (0x01DEADBEEF12345678ABCDEF07#104).extractLsb' 96 8 = 0x01#8 ∧
      (0x02FFFFFFFFFFFFFFFFFFFFFF01#104).extractLsb' 96 8 = 0x02#8 ∧ (0x02FFFFFFFFFFFFFFFFFFFFFF01#104).extractLsb' 1 7 = 0#7 := by
  decide

theorem test_witness_TinyInputsConvertAsZero :
    exponentField 0x80000000 = 0 ∧ exponentField 0x007FFFFF = 0 ∧ exponentField 0x7FC00000 = 255 ∧
      fx .binary32Stepwise 0x80000000 50 = .integer 5000 ∧ fx .exactReal 0x007FFFFF 0 = .integer 0 := by decide +kernel

/-- The boundary words of R132. -/
theorem test_witness_RangeEndsAtTheBoundaryWords :
    (fx .binary32Stepwise 0x438AD666 50).inRange = true ∧ (fx .binary32Stepwise 0x438AD667 50).inRange = false ∧
      (fx .exactReal 0xC3A3D8F5 0).inRange = true ∧ (fx .exactReal 0xC3A3D8F6 0).inRange = false := by decide +kernel

/-- The domain's ends: −50 and the last word below 277.66; 0 and the last word below 327.66. -/
theorem test_witness_EncodedQuantitiesRoundTripWithinAHundredth :
    (∃ u, f32 0xC2480000 = .finite u ∧ -50 ≤ unitsValue u ∧ unitsValue u ≤ 27766 / 100) ∧
      (∃ u, f32 0x438AD47A = .finite u ∧ -50 ≤ unitsValue u ∧ unitsValue u ≤ 27766 / 100) ∧
      (∃ u, f32 0x80000000 = .finite u ∧ 0 ≤ unitsValue u ∧ unitsValue u ≤ 32766 / 100) ∧
      ∃ u, f32 0x43A3D47A = .finite u ∧ 0 ≤ unitsValue u ∧ unitsValue u ≤ 32766 / 100 := by
  refine ⟨⟨-50 * 2 ^ 149, by decide +kernel, ?_⟩, ⟨0x8AD47A * 2 ^ 134, by decide +kernel, ?_⟩, ⟨0, by decide +kernel, ?_⟩,
    ⟨0xA3D47A * 2 ^ 134, by decide +kernel, ?_⟩⟩ <;> norm_num [unitsValue]

/-- Three values in range (32767 among them), and one that is not among three. -/
theorem test_witness_FailPolicyWritesAllOrNothing :
    failing.rangePolicy = .fail ∧ fx failing.numerics 0x438AD666 50 = .integer 32767 ∧
      fx failing.numerics 0x425CCCCD 0 = .integer 5520 ∧ fx failing.numerics 0x40533333 0 = .integer 330 ∧
      fx failing.numerics 0x438AD667 50 = .integer 32768 ∧ fx failing.numerics 0x7FC00000 0 = .nonfinite := by decide +kernel

theorem test_witness_TimingPrimitivesDoWhatTheySay :
    false = scenario.line ∧ true ≠ scenario.line ∧ scenario.now.toNat + (2 ^ 64 - 1) < 2 ^ 64 := by decide

theorem test_witness_LatenciesAddToThePeriod :
    let s := idleWith scenarioFrame 9500 10000
    (firstRise s + us 3 + us 2 + us (pulseWidth Config.hardware false) + us 4) + us 5 ≤
      (sendBitWith Config.hardware ⟨3, 2, 4, 5⟩ false s).nextEdge := by decide

/-- A gap that reaches the deadline exactly, and one microsecond more (R147, R148). -/
theorem test_witness_GapIsCompensatedUpToTheDeadline :
    scenario.rst = false ∧ (firstRise scenario).toNat + (4000 + 1400 + 2000 + 1401) < 2 ^ 64 ∧
      pulseWidth Config.hardware true + 1400 ≤ 2000 ∧ ¬ pulseWidth Config.hardware true + 1401 ≤ 2000 ∧
      pulseWidth Config.hardware false + 600 ≤ 2000 ∧ ¬ pulseWidth Config.hardware false + 601 ≤ 2000 := by decide

/-- The first rising edge from which the deadline wraps, and the last at which a pulse of 600 does not. -/
theorem test_witness_DeadlineWrapsAtTheTopOfTheClock :
    2 ^ 64 ≤ (firstRise (idleWith scenarioFrame (-2000) 0)).toNat + 2000 ∧
      (firstRise (idleWith scenarioFrame (-2000) 0)).toNat + pulseWidth Config.hardware false < 2 ^ 64 ∧
      2 ^ 64 ≤ (firstRise (idleWith scenarioFrame (-601) 0)).toNat + 2000 ∧
      (firstRise (idleWith scenarioFrame (-601) 0)).toNat + pulseWidth Config.hardware true < 2 ^ 64 := by decide

theorem test_witness_MicroOperationsTouchOnlyTheBitClock :
    Instr.eofmark.issuedBy .sequencer = true ∧ ∃ t, exec .eofmark scenario = .next t := ⟨rfl, _, rfl⟩

/-- The premises on the clock at their last value, for SENDBYTE, EOFMARK and SEND. -/
theorem test_witness_clock_premises :
    (firstRise (idleWith scenarioFrame (-18001) 0)).toNat + 9 * 2000 < 2 ^ 64 ∧
      (firstRise (idleWith scenarioFrame (-6001) 0)).toNat + 3 * 2000 < 2 ^ 64 ∧
      (firstRise (idleWith scenarioFrame (-190001) 0)).toNat + 190000 < 2 ^ 64 := by decide

/-- The premises of the closed form, which serve the count of slots too: with no reset to come, and with one asserted one microsecond after the exit. -/
theorem test_witness_SendTransmitsTheFrame :
    scenario.resetDue (firstRise scenario + 188600#64) = false ∧
      (withReset 188601 190000 scenario).resetDue (firstRise scenario + 188600#64) = false ∧
      (firstRise scenario).toNat + 190000 < 2 ^ 64 := by decide

theorem test_witness_SendTransmitsTheFrameInEveryConfiguration :
    let c : Config := { Config.hardware with nsync := 44, short := 1999 }
    c.wellFormed = true ∧ c.lat = Latency.zero ∧ (firstRise scenario).toNat + framePeriod c < 2 ^ 64 ∧
      scenario.resetDue (firstRise scenario + us (frameDuration c)) = false := by decide

theorem test_witness_SendIsItsMicroProgram : slow.wellFormed = true ∧ scenario.resets = [] := by decide

/-- The last ordinary slot and the marker slot. -/
theorem test_witness_SlotsAreSendbitsAndTheMarker :
    slow.wellFormed = true ∧ { scenario with slot := 91 }.subStep = .wait ∧ (91#7).toNat + 1 < slow.nSlots ∧
      (92#7).toNat + 1 = slow.nSlots := by decide

/-- A SEND that completes and one that a reset cuts both answer a next state. -/
theorem test_witness_SendLeavesTheFrameAlone :
    (∃ t, exec .send scenario = .next t) ∧ ∃ t, exec .send (withReset 60300 70000 scenario) = .next t := ⟨⟨_, rfl⟩, ⟨_, rfl⟩⟩

/-- Gaps of 1400 and 1401 after the exit (R181); the same premises serve the second SEND after INIT (R219). -/
theorem test_witness_BackToBackFramesArePhaseLocked :
    scenario.busy = false ∧ scenario.rst = false ∧ scenario.line = false ∧ scenario.resets = [] ∧
      (firstRise scenario).toNat + (2 * 190000 + 1400) < 2 ^ 64 ∧ (firstRise scenario).toNat + (2 * 190000 + 1401) < 2 ^ 64 := by
  decide

/-- A reset one microsecond after acceptance, and one at the exit. -/
theorem test_witness_ResetDuringASendCutsTheWaveform :
    scenario.now < 1 ∧ (1#64) ≤ firstRise scenario + 188600#64 ∧ scenario.now < 188600 ∧
      (188600#64) ≤ firstRise scenario + 188600#64 ∧ (withReset 188600 188700 scenario).resets = [⟨188600, 188700⟩] ∧
      (firstRise scenario).toNat + 190000 < 2 ^ 64 := by decide

/-- A benched SENDBIT; a released, idle block without a bench that steps; and a command word that decodes. -/
theorem test_witness_OnlyABenchRunsAMicroOperationAlone :
    (benching 0b0000000001#10 scenario).rst = false ∧ (benching 0b0000000001#10 scenario).busy = false ∧
      (benching 0b0000000001#10 scenario).bench = [⟨0, 0b0000000001#10⟩] ∧
      (benching 0b0000000001#10 scenario).resetDue (laterOf 0 0) = false ∧ decodeMicro 0b0000000001#10 = .ok (.sendbit true) ∧
      (∃ t, step (presenting 0 scenario) = .next t) ∧ decodeCommand 0x04000000000000000000000000#104 = .ok .send :=
  ⟨rfl, rfl, rfl, rfl, by decide, ⟨_, rfl⟩, by decide⟩

theorem test_witness_SumFormsTheChecksumOfTheFrame :
    scenario.busy = false ∧ scenario.rst = false ∧ scenario.resets = [] ∧ ∃ t, exec .send scenario = .next t :=
  ⟨rfl, rfl, rfl, _, rfl⟩

end Sys2Proof.Tests
end

section
/-! The steps of an idle, released block, as equations: the word the host presents is run, and with nothing to do a microsecond
passes (R13, R198, R201). -/

namespace Sys2Proof.Machine

/-- What an idle, released block without a bench does next is the host's. -/
theorem step_of_idle {s : State} (hrst : s.rst = false) (hbusy : s.busy = false) (hbench : s.bench = []) :
    step s = stepHost s := by
  simp [step, stepIdle, hrst, hbusy, hbench]

theorem stepHost_of_presented {s : State} {p : Presented} {rest : List Presented} (hhost : s.host = p :: rest)
    (hdue : s.resetDue (acceptTime s p) = false) : stepHost s = runWord p.word (s.acceptWord p rest) := by
  simp [stepHost, hhost, hdue]

theorem stepHost_of_nothing {s : State} (hhost : s.host = []) (hresets : s.resets = []) :
    stepHost s = .next (idleTick s) := by
  simp [stepHost, hhost, hresets]

theorem runWord_of_decodes {cw : CommandWord} {i : Instr} (h : decodeCommand cw = .ok i) (s : State) :
    runWord cw s = exec i s := by
  simp [runWord, h]

/-- Settles O6: the word decodes to a command (`decodeCommand_issuedBy`), and the idle step hands it to exec at its acceptance. -/
theorem stepRunsTheDecodedOperation : Obligations.StepRunsTheDecodedOperation := by
  intro s p rest i hrst hbusy hbench hhost hdue hdecode
  refine ⟨decodeCommand_issuedBy hdecode, ?_⟩
  calc step s
      = stepHost s := step_of_idle hrst hbusy hbench
    _ = runWord p.word (s.acceptWord p rest) := stepHost_of_presented hhost hdue
    _ = exec i (s.acceptWord p rest) := runWord_of_decodes hdecode _

/-- Settles O9: with nothing presented and no reset to come, the idle step is one tick of the clock. -/
theorem idleStepOnlyLetsTimePass : Obligations.IdleStepOnlyLetsTimePass := by
  intro s hrst hbusy hbench hhost hresets
  calc step s
      = stepHost s := step_of_idle hrst hbusy hbench
    _ = .next (idleTick s) := stepHost_of_nothing hhost hresets

end Sys2Proof.Machine
end

section
/-! The event log and the ports: an operation that changes the line or `busy` logs the change, so that the log goes on showing both
levels (R14, R143). -/

namespace Sys2Proof.Machine

/-- A change that is logged is what the log shows of the port from then on. -/
theorem portLevel_logChange_same {port : Port} {before : Bool} {log : List PortEvent} (h : portLevel port log = before)
    (after : Bool) (time : Time) : portLevel port (logChange port before after time log) = after := by
  unfold logChange
  split
  · next heq => exact h.trans heq
  · simp [portLevel]

/-- A change of one port is no change of another. -/
theorem portLevel_logChange_ne {port other : Port} (h : other ≠ port) (before after : Bool) (time : Time)
    (log : List PortEvent) : portLevel port (logChange other before after time log) = portLevel port log := by
  unfold logChange
  split
  · rfl
  · simp [portLevel, h]

/-- The log shows the levels of the ports `line` and `busy` (R14). -/
def State.PortsLogged (s : State) : Prop := portLevel .line s.log = s.line ∧ portLevel .busy s.log = s.busy

theorem State.Coherent.portsLogged {s : State} (h : s.Coherent) : s.PortsLogged := ⟨h.log_line, h.log_busy⟩

theorem State.PortsLogged.setLine {s : State} (h : s.PortsLogged) (b : Bool) : (s.setLine b).PortsLogged :=
  ⟨portLevel_logChange_same h.1 b s.now, (portLevel_logChange_ne (by decide) s.line b s.now s.log).trans h.2⟩

theorem State.PortsLogged.setBusy {s : State} (h : s.PortsLogged) (b : Bool) : (s.setBusy b).PortsLogged :=
  ⟨(portLevel_logChange_ne (by decide) s.busy b s.now s.log).trans h.1, portLevel_logChange_same h.2 b s.now⟩

/-- The only edge of steps 1 to 3 of SENDBIT is the rising one. -/
theorem State.PortsLogged.openPulse {s : State} (h : s.PortsLogged) (c : Config) (l : Latency) :
    (openPulse c l s).PortsLogged :=
  State.PortsLogged.setLine (s := (s.waitUntil s.nextEdge).delay l.dw) h true

/-- The only edge of steps 4 and 5 of SENDBIT is the falling one. -/
theorem State.PortsLogged.closePulse {s : State} (h : s.PortsLogged) (c : Config) (l : Latency) (v : Bool) :
    (closePulse c l v s).PortsLogged :=
  State.PortsLogged.setLine (s := (s.delay (pulseWidth c v)).delay l.dd) h false

theorem State.PortsLogged.sendBit {s : State} (h : s.PortsLogged) (c : Config) (v : Bool) : (sendBit c v s).PortsLogged :=
  (h.openPulse c c.lat).closePulse c c.lat v

theorem State.PortsLogged.closeMarker {s : State} (h : s.PortsLogged) (c : Config) : (closeMarker c s).PortsLogged :=
  (h.sendBit c true).setLine false

theorem State.PortsLogged.eofMark {s : State} (h : s.PortsLogged) (c : Config) : (eofMark c s).PortsLogged :=
  State.PortsLogged.closeMarker (s := holdMarker c (openMarker c s)) (h.openPulse c c.lat) c

/-- Reset logs the falling edge and the end of `busy`, where there are any (R211). -/
theorem State.PortsLogged.resetBlock {s : State} (h : s.PortsLogged) : (s.resetBlock Config.hardware).PortsLogged :=
  State.PortsLogged.setBusy (s := (s.setLine false).setNextEdge 0) (h.setLine false) false

end Sys2Proof.Machine
end

section
/-! What the operations of the transmitter leave alone: single fields of `SameSurroundings`, and what the bit-clock and the marker
leave alone of the sequencer, which is `BUSY`, the position and `SUM` (R26, R29, R33). -/

namespace Sys2Proof.Machine

theorem SameSurroundings.frame_eq {s t : State} (h : SameSurroundings s t) : t.frame = s.frame :=
  have ⟨hframe, _⟩ := h
  hframe

theorem SameSurroundings.errRange_eq {s t : State} (h : SameSurroundings s t) : t.errRange = s.errRange :=
  have ⟨_, herr, _⟩ := h
  herr

theorem SameSurroundings.rst_eq {s t : State} (h : SameSurroundings s t) : t.rst = s.rst :=
  have ⟨_, _, hrst, _⟩ := h
  hrst

/-- `BUSY`, the position of the sequencer and `SUM` are as before. -/
def SamePosition (s t : State) : Prop := t.busy = s.busy ∧ t.slot = s.slot ∧ t.subStep = s.subStep ∧ t.sum = s.sum

theorem SamePosition.trans {s t u : State} (h : SamePosition s t) (k : SamePosition t u) : SamePosition s u := by
  obtain ⟨hbusy, hslot, hsub, hsum⟩ := h
  obtain ⟨kbusy, kslot, ksub, ksum⟩ := k
  exact ⟨kbusy.trans hbusy, kslot.trans hslot, ksub.trans hsub, ksum.trans hsum⟩

theorem SamePosition.busy_eq {s t : State} (h : SamePosition s t) : t.busy = s.busy :=
  have ⟨hbusy, _⟩ := h
  hbusy

theorem SamePosition.slot_eq {s t : State} (h : SamePosition s t) : t.slot = s.slot :=
  have ⟨_, hslot, _⟩ := h
  hslot

theorem SamePosition.sum_eq {s t : State} (h : SamePosition s t) : t.sum = s.sum :=
  have ⟨_, _, _, hsum⟩ := h
  hsum

theorem openPulse_position (c : Config) (l : Latency) (s : State) : SamePosition s (openPulse c l s) := ⟨rfl, rfl, rfl, rfl⟩

theorem closePulse_position (c : Config) (l : Latency) (v : Bool) (s : State) : SamePosition s (closePulse c l v s) :=
  ⟨rfl, rfl, rfl, rfl⟩

theorem holdMarker_position (c : Config) (s : State) : SamePosition s (holdMarker c s) := ⟨rfl, rfl, rfl, rfl⟩

theorem sendBit_position (c : Config) (v : Bool) (s : State) : SamePosition s (sendBit c v s) :=
  (openPulse_position c c.lat s).trans (closePulse_position c c.lat v _)

theorem closeMarker_position (c : Config) (s : State) : SamePosition s (closeMarker c s) := sendBit_position c true s

theorem eofMark_position (c : Config) (s : State) : SamePosition s (eofMark c s) :=
  (openPulse_position c c.lat s).trans ((holdMarker_position c _).trans (closeMarker_position c _))

theorem openPulse_line (c : Config) (l : Latency) (s : State) : (openPulse c l s).line = true := rfl

theorem holdMarker_line (c : Config) (s : State) : (holdMarker c s).line = s.line := rfl

theorem closePulse_line (c : Config) (l : Latency) (v : Bool) (s : State) : (closePulse c l v s).line = false := rfl

theorem closeMarker_line (c : Config) (s : State) : (closeMarker c s).line = false := rfl

end Sys2Proof.Machine
end

section
/-! Coherence of an idle block: what an idle coherent block is (`State.Resting`), and that every operation but SEND, and reset,
leave the block one. -/

namespace Sys2Proof.Machine

/-- The block at rest: the part of the invariant that concerns an idle block, whatever `rst` is (R14, R26, R30, R79). -/
structure State.Resting (s : State) : Prop where
  idle : s.busy = false
  slot_zero : s.slot = 0
  at_wait : s.subStep = .wait
  line_low : s.line = false
  err_wired : s.errRange = false
  logged : s.PortsLogged

theorem State.Coherent.resting {s : State} (h : s.Coherent) (hbusy : s.busy = false) : s.Resting :=
  have ⟨hslot, hwait⟩ := h.idle_position hbusy
  ⟨hbusy, hslot, hwait, by simp [h.line_level, hwait], h.err_wired, h.portsLogged⟩

/-- A block at rest is coherent, if `rst` holds nothing but the reset values (R210). -/
theorem State.Resting.coherent {s : State} (h : s.Resting)
    (hheld : s.rst = true → s.nextEdge = 0 ∧ s.frame = Frame.reset) : s.Coherent where
  idle_position _ := ⟨h.slot_zero, h.at_wait⟩
  slot_in_range := by simp [h.slot_zero]
  line_level := by simp [h.line_low, h.at_wait]
  pulse_slot := by simp [h.at_wait]
  marker_slot := by simp [h.at_wait]
  err_wired := h.err_wired
  held hrst := ⟨h.idle, hheld hrst⟩
  partial_sum := by simp [h.idle]
  log_line := h.logged.1
  log_busy := h.logged.2

theorem State.Resting.coherent_of_released {s : State} (h : s.Resting) (hrst : s.rst = false) : s.Coherent :=
  h.coherent (by simp [hrst])

/-- The invariant says nothing about the clock and what the environment is about to do. -/
theorem State.Coherent.withEnvironment {s : State} (h : s.Coherent) (now : Time) (host : List Presented)
    (bench : List Benched) : State.Coherent { s with now := now, host := host, bench := bench } :=
  ⟨h.idle_position, h.slot_in_range, h.line_level, h.pulse_slot, h.marker_slot, h.err_wired, h.held, h.partial_sum, h.log_line,
    h.log_busy⟩

/-! ### Reset -/

/-- What `rst` forces is coherent, whatever ran before, and whether the level is asserted or released then (R210, R211). -/
theorem resetBlock_coherent {s : State} (h : s.PortsLogged) (level : Bool) (pulses : List ResetPulse) :
    State.Coherent { s.resetBlock Config.hardware with rst := level, resets := pulses } :=
  State.Resting.coherent ⟨rfl, rfl, rfl, rfl, rfl, h.resetBlock⟩ fun _ => ⟨rfl, rfl⟩

theorem assertReset_coherent {s : State} (h : s.Coherent) : (assertReset Config.hardware s).Coherent := by
  unfold assertReset
  split
  · exact h
  · next p _ _ => exact resetBlock_coherent (s := s.waitUntil p.assertAt) h.portsLogged true s.resets

theorem holdReset_coherent {s : State} (h : s.Coherent) : (holdReset Config.hardware s).Coherent := by
  unfold holdReset
  split
  · exact resetBlock_coherent (s := s.delay 1) h.portsLogged s.rst s.resets
  · next p rest _ => exact resetBlock_coherent (s := s.waitUntil p.releaseAt) h.portsLogged false rest

/-! ### The setup commands -/

theorem initBlock_resting {s : State} (h : s.Resting) : (initBlock Config.hardware s).Resting :=
  ⟨h.idle, h.slot_zero, h.at_wait, rfl, rfl, h.logged.setLine false⟩

theorem setByte_resting {s : State} (h : s.Resting) (i : Fin 8) (v : Byte) : (s.setByte i v).Resting :=
  ⟨h.idle, h.slot_zero, h.at_wait, h.line_low, h.err_wired, h.logged⟩

theorem setData_resting {s : State} (h : s.Resting) (temp humidity voltage : Single) :
    (setData Config.hardware temp humidity voltage s).Resting := by
  obtain ⟨p1, p2, p3, n, heq⟩ := setData_hardware_eq temp humidity voltage s
  rw [heq]
  exact ⟨h.idle, h.slot_zero, h.at_wait, h.line_low, h.err_wired, h.logged⟩

/-! ### The micro-operations alone on a bench -/

theorem sendBit_resting {s : State} (h : s.Resting) (c : Config) (v : Bool) : (sendBit c v s).Resting :=
  ⟨h.idle, h.slot_zero, h.at_wait, rfl, h.err_wired, h.logged.sendBit c v⟩

theorem microGap_resting {s : State} (h : s.Resting) (c : Config) : (microGap c s).Resting :=
  ⟨h.idle, h.slot_zero, h.at_wait, h.line_low, h.err_wired, h.logged⟩

theorem sendBits_resting (c : Config) : ∀ (vs : List Bool) {s : State}, s.Resting → (sendBits c vs s).Resting
  | [], _, h => h
  | [v], _, h => sendBit_resting h c v
  | v :: v' :: vs, _, h => sendBits_resting c (v' :: vs) (microGap_resting (sendBit_resting h c v) c)

theorem eofMark_resting {s : State} (h : s.Resting) (c : Config) : (eofMark c s).Resting :=
  have ⟨hbusy, hslot, hsub, _⟩ := eofMark_position c s
  ⟨hbusy.trans h.idle, hslot.trans h.slot_zero, hsub.trans h.at_wait, closeMarker_line c _,
    (eofMark_surroundings c s).errRange_eq.trans h.err_wired, h.logged.eofMark c⟩

/-- Every operation but SEND leaves a block at rest. -/
theorem effect_resting {i : Instr} (hi : i ≠ .send) {s : State} (h : s.Resting) : (effect i s).Resting := by
  cases i with
  | init => exact initBlock_resting h
  | setaddr addr => exact setByte_resting h 1 addr
  | settype kind => exact setByte_resting h 0 kind.raw
  | setdata temp humidity voltage => exact setData_resting h temp humidity voltage
  | send => exact absurd rfl hi
  | sendbit v => exact sendBit_resting h Config.hardware v
  | sendbyte b => exact sendBits_resting Config.hardware (wireBits b) h
  | eofmark => exact eofMark_resting h Config.hardware

/-- No operation drives the input port `rst` (R13). -/
theorem effect_rst (i : Instr) (s : State) : (effect i s).rst = s.rst := by
  cases i with
  | init => rfl
  | setaddr addr => rfl
  | settype kind => rfl
  | setdata temp humidity voltage =>
    obtain ⟨p1, p2, p3, n, heq⟩ := setData_hardware_eq temp humidity voltage s
    have hrst : (setData Config.hardware temp humidity voltage s).rst = s.rst := by rw [heq]; rfl
    exact hrst
  | send => exact (sendFrame_surroundings Config.hardware s).rst_eq
  | sendbit v => exact (sendBit_surroundings Config.hardware v s).rst_eq
  | sendbyte b => exact (sendByte_surroundings Config.hardware b s).rst_eq
  | eofmark => exact (eofMark_surroundings Config.hardware s).rst_eq

end Sys2Proof.Machine
end

section
/-! How many Frame bytes are in `SUM` along a transmission (R162): a byte is added where its first slot is entered, and only
there, and 11 bits hold every partial sum. -/

namespace Sys2Proof.Machine

theorem firstChecksum_eq {c : Config} (hlen : c.length = 8) : firstChecksum c = firstData c + 72 := by
  simp [firstChecksum, hlen]

/-- The first bit of the data byte at offset `idx` is in slot `D0` + 9 × `idx`, and no other slot carries a byte's first bit (R27,
R77). -/
theorem slotKind_first_bit_iff {c : Config} (hlen : c.length = 8) (k : Nat) (idx : Fin 8) :
    slotKind c k = .data idx 0 ↔ k = firstData c + 9 * idx := by
  have hidx := idx.isLt
  have hend := firstChecksum_eq hlen
  have hstart : firstData c = c.nsync + 2 := rfl
  unfold slotKind
  split_ifs
  · simp only [false_iff]; omega
  · simp only [false_iff]; omega
  · simp only [false_iff]; omega
  · simp only [SlotKind.data.injEq, Fin.ext_iff, Fin.val_ofNat, Fin.val_zero]
    omega
  · simp only [false_iff]; omega
  · simp only [false_iff]; omega

/-- Before the first slot of a data byte is entered, the bytes of the lower offsets are in `SUM`. -/
theorem bytesSummed_before_first_bit {c : Config} (hlen : c.length = 8) (idx : Fin 8) :
    bytesSummed c (firstData c + 9 * idx) .wait = idx := by
  have hidx := idx.isLt
  have hend := firstChecksum_eq hlen
  simp only [bytesSummed, and_true]
  split_ifs <;> omega

/-- Once it is entered, one more. -/
theorem bytesSummed_after_first_bit {c : Config} (hlen : c.length = 8) (idx : Fin 8) {t : SubStep} (ht : t ≠ .wait) :
    bytesSummed c (firstData c + 9 * idx) t = idx + 1 := by
  have hidx := idx.isLt
  have hend := firstChecksum_eq hlen
  simp only [bytesSummed, ht, and_false, if_false]
  split_ifs <;> omega

/-- Entering any other slot takes no byte. -/
theorem bytesSummed_of_other_slot {c : Config} (hlen : c.length = 8) {k : Nat}
    (hk : ∀ idx : Fin 8, k ≠ firstData c + 9 * idx) (t : SubStep) : bytesSummed c k t = bytesSummed c k .wait := by
  have hend := firstChecksum_eq hlen
  unfold bytesSummed
  by_cases hdata : firstData c ≤ k ∧ k < firstChecksum c
  · have hmid : (k - firstData c) % 9 ≠ 0 := by
      have hquot := hk ⟨(k - firstData c) / 9, by omega⟩
      simp only at hquot
      omega
    simp [hmid]
  · split_ifs <;> omega

/-- Only the entry of the slot counts, not which sub-step follows it. -/
theorem bytesSummed_of_ne_wait (c : Config) (k : Nat) {t u : SubStep} (ht : t ≠ .wait) (hu : u ≠ .wait) :
    bytesSummed c k t = bytesSummed c k u := by
  simp only [bytesSummed, ht, hu]

/-- Nor does going from one slot to the next. -/
theorem bytesSummed_next {c : Config} (hlen : c.length = 8) (k : Nat) {t : SubStep} (ht : t ≠ .wait) :
    bytesSummed c (k + 1) .wait = bytesSummed c k t := by
  have hend := firstChecksum_eq hlen
  simp only [bytesSummed, ht, and_true, and_false, if_false]
  split_ifs <;> omega

theorem bytesSummed_start (c : Config) : bytesSummed c 0 .wait = 0 := by
  simp [bytesSummed, firstData]

theorem byteSum_take_succ (f : Frame) (i : Fin 8) :
    byteSum (f.bytes.take (i + 1)) = byteSum (f.bytes.take i) + (f.get i).toNat := by
  fin_cases i <;> simp [Frame.bytes, Frame.get, byteSum, Nat.add_assoc]

/-- Every partial sum of the Frame fits the 11 bits of `SUM` (R33, R161). -/
theorem byteSum_take_lt (f : Frame) (n : Nat) : byteSum (f.bytes.take n) < 2 ^ 11 := by
  have hsum := byteSum_le (f.bytes.take n)
  have hlen : (f.bytes.take n).length ≤ 8 := List.length_take_le' n f.bytes
  omega

/-- `SUM` holds the Frame bytes taken up to a position (R162). -/
def State.SumAt (c : Config) (s : State) (slot : Nat) (t : SubStep) : Prop :=
  s.sum.toNat = byteSum (s.frame.bytes.take (bytesSummed c slot t))

/-- What leaves the Frame and `SUM` alone leaves the sum right. -/
theorem State.SumAt.of_same {c : Config} {s u : State} {slot : Nat} {t : SubStep} (h : s.SumAt c slot t)
    (hsame : SameSurroundings s u) (hposition : SamePosition s u) : u.SumAt c slot t := by
  rwa [State.SumAt, hposition.sum_eq, hsame.frame_eq]

/-- The entry of a slot changes at most `SUM`. -/
theorem enterSlot_eq_setSum (c : Config) (s : State) : ∃ v, enterSlot c s = s.setSum v := by
  unfold enterSlot
  split
  · split
    · exact ⟨_, rfl⟩
    · exact ⟨s.sum, rfl⟩
  · exact ⟨s.sum, rfl⟩

theorem enterSlot_of_first_bit {c : Config} {s : State} {idx : Fin 8} (h : slotKind c s.slot.toNat = .data idx 0) :
    enterSlot c s = s.accumulate (s.frame.get idx) := by
  simp [enterSlot, h]

theorem enterSlot_of_other_slot {c : Config} {s : State} (h : ∀ idx, slotKind c s.slot.toNat ≠ .data idx 0) :
    enterSlot c s = s := by
  unfold enterSlot
  split
  · next idx bitPos hkind =>
    have hpos : bitPos ≠ 0 := fun hzero => h idx (hzero ▸ hkind)
    simp [hpos]
  · rfl

/-- The entry of a slot accumulates what the slot takes, so that `SUM` is right for the sub-steps after the wait (R162, R173). -/
theorem enterSlot_sumAt {c : Config} (hlen : c.length = 8) {s : State} (h : s.SumAt c s.slot.toNat .wait) {t : SubStep}
    (ht : t ≠ .wait) : (enterSlot c s).SumAt c s.slot.toNat t := by
  by_cases hfirst : ∃ idx : Fin 8, slotKind c s.slot.toNat = .data idx 0
  · obtain ⟨idx, hkind⟩ := hfirst
    have hslot := (slotKind_first_bit_iff hlen _ idx).1 hkind
    have hbefore : s.sum.toNat = byteSum (s.frame.bytes.take idx) := by
      rwa [State.SumAt, hslot, bytesSummed_before_first_bit hlen] at h
    have htaken := byteSum_take_succ s.frame idx
    have hfits := byteSum_take_lt s.frame (idx + 1)
    rw [State.SumAt, enterSlot_of_first_bit hkind, hslot, bytesSummed_after_first_bit hlen idx ht,
      accumulate_sum_toNat _ _ (by omega), hbefore]
    exact htaken.symm
  · have hother : ∀ idx, slotKind c s.slot.toNat ≠ .data idx 0 := fun idx hkind => hfirst ⟨idx, hkind⟩
    rw [State.SumAt, enterSlot_of_other_slot hother,
      bytesSummed_of_other_slot hlen fun idx hslot => hother idx ((slotKind_first_bit_iff hlen _ idx).2 hslot)]
    exact h

end Sys2Proof.Machine
end

section
/-! Coherence of a running SEND: the sub-steps of the sequencer, one lemma each, and what follows for a whole SEND. -/

namespace Sys2Proof.Machine

/-! ### The sequencer's equations -/

theorem sequencerStep_of_wait (c : Config) {s : State} (h : s.subStep = .wait) :
    sequencerStep c s = (openPulse c c.lat (enterSlot c s)).setPosition s.slot (afterRise c s) := by
  simp [sequencerStep, h]

theorem sequencerStep_of_pulse (c : Config) {s : State} (h : s.subStep = .pulse) :
    sequencerStep c s = completeSlot c (closePulse c c.lat (slotBit c s) s) := by
  simp [sequencerStep, h]

theorem sequencerStep_of_eofHold (c : Config) {s : State} (h : s.subStep = .eofHold) :
    sequencerStep c s = (holdMarker c s).setPosition s.slot .eofPulse := by
  simp [sequencerStep, h]

theorem sequencerStep_of_eofPulse (c : Config) {s : State} (h : s.subStep = .eofPulse) :
    sequencerStep c s = completeSlot c (closeMarker c s) := by
  simp [sequencerStep, h]

theorem completeSlot_of_lt {c : Config} {s : State} (h : s.slot.toNat + 1 < c.nSlots) :
    completeSlot c s = microGap c (s.setPosition (s.slot + 1) .wait) := by
  simp [completeSlot, h]

theorem completeSlot_of_last {c : Config} {s : State} (h : c.nSlots ≤ s.slot.toNat + 1) : completeSlot c s = finishSend s := by
  simp [completeSlot, Nat.not_lt.2 h]

/-- After the rising edge the last slot holds, and every other runs its pulse (R26). -/
theorem afterRise_eq {c : Config} (hc : c.wellFormed = true) (s : State) :
    afterRise c s = if c.nSlots ≤ s.slot.toNat + 1 then .eofHold else .pulse := by
  unfold afterRise
  split
  · next hkind => simp [(slotKind_marker_iff c hc _).1 hkind]
  · next hkind =>
    have hnotLast : ¬ c.nSlots ≤ s.slot.toNat + 1 := fun hlast => hkind ((slotKind_marker_iff c hc _).2 hlast)
    simp [hnotLast]

theorem afterRise_ne_wait (c : Config) (s : State) : afterRise c s ≠ .wait := by
  unfold afterRise
  split <;> simp

/-! ### A running SEND -/

/-- What holds throughout a SEND, also between the edge of a sub-step and its new position (R14, R30, R210). -/
structure State.Sending (s : State) : Prop where
  released : s.rst = false
  running : s.busy = true
  err_wired : s.errRange = false
  logged : s.PortsLogged

theorem State.Sending.of_same {s t : State} (h : s.Sending) (hsame : SameSurroundings s t) (hposition : SamePosition s t)
    (hlogged : t.PortsLogged) : t.Sending :=
  ⟨hsame.rst_eq.trans h.released, hposition.busy_eq.trans h.running, hsame.errRange_eq.trans h.err_wired, hlogged⟩

theorem State.Sending.setSum {s : State} (h : s.Sending) (v : BitVec 11) : (s.setSum v).Sending :=
  ⟨h.released, h.running, h.err_wired, h.logged⟩

theorem State.Sending.enterSlot {s : State} (h : s.Sending) (c : Config) : (enterSlot c s).Sending := by
  obtain ⟨v, henter⟩ := enterSlot_eq_setSum c s
  exact henter ▸ h.setSum v

theorem State.Sending.openPulse {s : State} (h : s.Sending) (c : Config) (l : Latency) : (openPulse c l s).Sending :=
  h.of_same (openPulse_surroundings c l s) (openPulse_position c l s) (h.logged.openPulse c l)

theorem State.Sending.closePulse {s : State} (h : s.Sending) (c : Config) (l : Latency) (v : Bool) :
    (closePulse c l v s).Sending :=
  h.of_same (closePulse_surroundings c l v s) (closePulse_position c l v s) (h.logged.closePulse c l v)

theorem State.Sending.holdMarker {s : State} (h : s.Sending) (c : Config) : (holdMarker c s).Sending :=
  h.of_same (delay_surroundings _ s) (holdMarker_position c s) h.logged

theorem State.Sending.closeMarker {s : State} (h : s.Sending) (c : Config) : (closeMarker c s).Sending :=
  h.of_same (closeMarker_surroundings c s) (closeMarker_position c s) (h.logged.closeMarker c)

/-- The positions a running SEND takes: no slot past the last, and the marker's sub-steps in the last slot only (R26, R28). -/
structure LegalPosition (slot : BitVec 7) (t : SubStep) : Prop where
  in_range : slot.toNat < Config.hardware.nSlots
  pulse_slot : t = .pulse → slot.toNat < Config.hardware.nSlots - 1
  marker_slot : t = .eofHold ∨ t = .eofPulse → slot.toNat = Config.hardware.nSlots - 1

/-- The part of the invariant that concerns a running SEND, between two of its sub-steps. -/
structure State.Running (s : State) : Prop where
  sending : s.Sending
  position : LegalPosition s.slot s.subStep
  line_level : s.line = decide (s.subStep ≠ .wait)
  partial_sum : s.SumAt Config.hardware s.slot.toNat s.subStep

theorem State.Running.coherent {s : State} (h : s.Running) : s.Coherent where
  idle_position hidle := by simp [h.sending.running] at hidle
  slot_in_range := h.position.in_range
  line_level := h.line_level
  pulse_slot := h.position.pulse_slot
  marker_slot := h.position.marker_slot
  err_wired := h.sending.err_wired
  held hrst := by simp [h.sending.released] at hrst
  partial_sum _ := h.partial_sum
  log_line := h.sending.logged.1
  log_busy := h.sending.logged.2

/-- `rst` is not asserted while a SEND runs: it would have ended the SEND (R210). -/
theorem State.Coherent.released_of_busy {s : State} (h : s.Coherent) (hbusy : s.busy = true) : s.rst = false := by
  by_contra hrst
  obtain ⟨hidle, -⟩ := h.held (by simpa using hrst)
  simp [hbusy] at hidle

theorem State.Coherent.running {s : State} (h : s.Coherent) (hbusy : s.busy = true) : s.Running where
  sending := ⟨h.released_of_busy hbusy, hbusy, h.err_wired, h.portsLogged⟩
  position := ⟨h.slot_in_range, h.pulse_slot, h.marker_slot⟩
  line_level := h.line_level
  partial_sum := h.partial_sum hbusy

/-- The end of a sub-step that is not the last: the edge is made, and the new position fits it. -/
theorem State.Sending.setPosition_running {s : State} (h : s.Sending) {slot : BitVec 7} {t : SubStep}
    (hposition : LegalPosition slot t) (hline : s.line = decide (t ≠ .wait)) (hsum : s.SumAt Config.hardware slot.toNat t) :
    (s.setPosition slot t).Running :=
  ⟨⟨h.released, h.running, h.err_wired, h.logged⟩, hposition, hline, hsum⟩

theorem State.Running.microGap {s : State} (h : s.Running) (c : Config) : (microGap c s).Running :=
  ⟨⟨h.sending.released, h.sending.running, h.sending.err_wired, h.sending.logged⟩, h.position, h.line_level, h.partial_sum⟩

/-- The exit of SEND leaves the block at rest (R28, R177). -/
theorem State.Sending.finishSend_resting {s : State} (h : s.Sending) (hline : s.line = false) : (finishSend s).Resting :=
  ⟨rfl, rfl, rfl, hline, h.err_wired, h.logged.setBusy false⟩

/-! ### The sub-steps -/

/-- The sub-step after a rising edge is legal in every slot. -/
theorem afterRise_legal {s : State} (h : s.slot.toNat < Config.hardware.nSlots) :
    LegalPosition s.slot (afterRise Config.hardware s) := by
  rw [afterRise_eq Config.hardware_wellFormed]
  split
  · exact ⟨h, nofun, fun _ => by omega⟩
  · exact ⟨h, fun _ => by omega, nofun⟩

/-- The rising edge of a slot. -/
theorem sequencerStep_wait_running {s : State} (h : s.Running) (hsub : s.subStep = .wait) :
    (sequencerStep Config.hardware s).Running := by
  have hwait := afterRise_ne_wait Config.hardware s
  have hsum := enterSlot_sumAt Config.hardware_length (hsub ▸ h.partial_sum) hwait
  rw [sequencerStep_of_wait _ hsub]
  refine ((h.sending.enterSlot _).openPulse _ _).setPosition_running (afterRise_legal h.position.in_range) ?_ ?_
  · rw [openPulse_line, decide_eq_true hwait]
  · exact hsum.of_same (openPulse_surroundings _ _ _) (openPulse_position _ _ _)

/-- The falling edge of an ordinary slot, after which there is a next slot. -/
theorem sequencerStep_pulse_running {s : State} (h : s.Running) (hsub : s.subStep = .pulse) :
    (sequencerStep Config.hardware s).Running := by
  have hclosed := closePulse_position Config.hardware Config.hardware.lat (slotBit Config.hardware s) s
  have hnext : s.slot.toNat + 1 < Config.hardware.nSlots := by
    have hslot := h.position.pulse_slot hsub
    omega
  have hslot' : (s.slot + 1).toNat = s.slot.toNat + 1 := by
    simp only [Config.hardware_nSlots] at hnext
    rw [BitVec.toNat_add_of_lt] <;> simp; omega
  have hsum : s.SumAt Config.hardware (s.slot + 1).toNat .wait := by
    rw [hslot', State.SumAt, bytesSummed_next Config.hardware_length _ (t := s.subStep) (by simp [hsub])]
    exact h.partial_sum
  have hlegal : LegalPosition (s.slot + 1) .wait := ⟨hslot'.trans_lt hnext, nofun, nofun⟩
  rw [sequencerStep_of_pulse _ hsub, completeSlot_of_lt (by rwa [hclosed.slot_eq]), hclosed.slot_eq]
  refine ((h.sending.closePulse _ _ _).setPosition_running hlegal ?_ ?_).microGap _
  · rw [closePulse_line]; rfl
  · exact hsum.of_same (closePulse_surroundings _ _ _ _) hclosed

/-- The end of the marker's hold, with the line still HIGH. -/
theorem sequencerStep_eofHold_running {s : State} (h : s.Running) (hsub : s.subStep = .eofHold) :
    (sequencerStep Config.hardware s).Running := by
  have hsum : s.SumAt Config.hardware s.slot.toNat .eofPulse := by
    rw [State.SumAt, bytesSummed_of_ne_wait _ _ (t := .eofPulse) (u := s.subStep) (by simp) (by simp [hsub])]
    exact h.partial_sum
  rw [sequencerStep_of_eofHold _ hsub]
  refine (h.sending.holdMarker _).setPosition_running
    ⟨h.position.in_range, nofun, fun _ => h.position.marker_slot (.inl hsub)⟩ ?_ ?_
  · rw [holdMarker_line, h.line_level, hsub]; rfl
  · exact hsum.of_same (delay_surroundings _ _) (holdMarker_position _ _)

/-- The end of the marker is the exit of SEND. -/
theorem sequencerStep_eofPulse_resting {s : State} (h : s.Running) (hsub : s.subStep = .eofPulse) :
    (sequencerStep Config.hardware s).Resting := by
  have hlast : Config.hardware.nSlots ≤ (closeMarker Config.hardware s).slot.toNat + 1 := by
    rw [(closeMarker_position Config.hardware s).slot_eq]
    have hslot := h.position.marker_slot (.inr hsub)
    omega
  rw [sequencerStep_of_eofPulse _ hsub, completeSlot_of_last hlast]
  exact (h.sending.closeMarker _).finishSend_resting (closeMarker_line _ s)

/-- Every sub-step of a running SEND keeps the block coherent. -/
theorem sequencerStep_coherent {s : State} (h : s.Coherent) (hbusy : s.busy = true) :
    (sequencerStep Config.hardware s).Coherent := by
  have hrun := h.running hbusy
  cases hsub : s.subStep with
  | wait => exact (sequencerStep_wait_running hrun hsub).coherent
  | pulse => exact (sequencerStep_pulse_running hrun hsub).coherent
  | eofHold => exact (sequencerStep_eofHold_running hrun hsub).coherent
  | eofPulse =>
    have hrst := (sequencerStep_surroundings Config.hardware s).rst_eq.trans hrun.sending.released
    exact (sequencerStep_eofPulse_resting hrun hsub).coherent_of_released hrst

/-- The acceptance of SEND: the first slot, with no byte taken. -/
theorem acceptSend_running {s : State} (h : s.Resting) (hrst : s.rst = false) : (acceptSend s).Running where
  sending := ⟨hrst, rfl, h.err_wired, h.logged.setBusy true⟩
  position := ⟨by simp [acceptSend], nofun, nofun⟩
  line_level := h.line_low
  partial_sum := by simp [State.SumAt, acceptSend, bytesSummed_start, byteSum]

/-- A whole SEND, completed or cut before a sub-step that a reset overtakes, keeps the block coherent. -/
theorem sendFrame_coherent {s : State} (h : s.Resting) (hrst : s.rst = false) : (sendFrame Config.hardware s).Coherent :=
  runSequencer_induction State.Coherent (fun _ hs hbusy => sequencerStep_coherent hs hbusy) _ _
    (acceptSend_running h hrst).coherent

end Sys2Proof.Machine
end

section
/-! The invariant: every operation on an idle block keeps it, and so does every step. -/

namespace Sys2Proof.Machine

/-- Every operation keeps an idle, released block coherent. -/
theorem effect_coherent (i : Instr) {s : State} (h : s.Resting) (hrst : s.rst = false) : (effect i s).Coherent := by
  by_cases hsend : i = .send
  · subst hsend
    exact sendFrame_coherent h hrst
  · exact (effect_resting hsend h).coherent_of_released ((effect_rst i s).trans hrst)

theorem exec_coherent {i : Instr} {s t : State} (h : s.Coherent) (hrst : s.rst = false) (hbusy : s.busy = false)
    (hexec : exec i s = .next t) : t.Coherent := by
  rcases exec_cases i s with heq | heq <;> rw [heq] at hexec <;> cases hexec
  · exact effect_coherent i (h.resting hbusy) hrst
  · exact h

theorem runWord_coherent {cw : CommandWord} {s t : State} (h : s.Coherent) (hrst : s.rst = false) (hbusy : s.busy = false)
    (hrun : runWord cw s = .next t) : t.Coherent := by
  rcases runWord_cases cw s with ⟨i, -, -, heq⟩ | ⟨-, heq⟩ <;> rw [heq] at hrun
  · exact exec_coherent h hrst hbusy hrun
  · cases hrun
    exact h

theorem runLabel_coherent {uop : MicroLabel} {s t : State} (h : s.Coherent) (hrst : s.rst = false) (hbusy : s.busy = false)
    (hrun : runLabel uop s = .next t) : t.Coherent := by
  rcases runLabel_cases uop s with ⟨i, -, -, heq⟩ | ⟨-, heq⟩ <;> rw [heq] at hrun
  · exact exec_coherent h hrst hbusy hrun
  · cases hrun

/-- Settles O19, by the cases of a step (`step_cases`): reset, a sub-step of a running SEND, a tick, a presented word, a label. -/
theorem everyStepKeepsTheMachineCoherent : Obligations.EveryStepKeepsTheMachineCoherent := by
  intro s t h hstep
  rcases step_cases s with ⟨-, heq⟩ | ⟨-, -, heq⟩ | ⟨-, hbusy, heq⟩ | ⟨-, -, -, -, -, heq⟩ |
      ⟨hrst, hbusy, -, p, rest, -, -, heq⟩ | ⟨hrst, hbusy, b, rest, -, -, heq⟩ <;> rw [heq] at hstep
  · cases hstep; exact holdReset_coherent h
  · cases hstep; exact assertReset_coherent h
  · cases hstep; exact sequencerStep_coherent h hbusy
  · cases hstep; exact h.withEnvironment (s.now + us 1) s.host s.bench
  · exact runWord_coherent (h.withEnvironment (acceptTime s p) rest s.bench) hrst hbusy hstep
  · exact runLabel_coherent (h.withEnvironment (benchTime s b) s.host rest) hrst hbusy hstep

end Sys2Proof.Machine
end

section
/-! The reset state: its registers, and that a block right after reset is at rest (R35, R210, R212). -/

namespace Sys2Proof.Machine

/-- The Frame after reset, read as registers (R35, R212). -/
theorem Frame.reset_get (i : Fin 8) : Frame.reset.get i = Config.frameReset i := by
  fin_cases i <;> rfl

theorem State.reset_readByte (i : Fin 8) : State.reset.readByte i = some (Config.frameReset i) := by
  rw [State.readByte_of_lt]
  exact congrArg some (Frame.reset_get i)

theorem State.reset_resting : State.reset.Resting := ⟨rfl, rfl, rfl, rfl, rfl, rfl, rfl⟩

/-- Settles O15: every field by its definition, the Frame through its eight registers (`State.reset_readByte`). -/
theorem resetLeavesTheStatedValues : Obligations.ResetLeavesTheStatedValues :=
  ⟨rfl, rfl, rfl, rfl, rfl, rfl, State.reset_readByte, State.reset_memory_wf, rfl, rfl, rfl⟩

/-- Settles O18: the block is at rest right after reset, and `rst` is released. -/
theorem resetStateIsCoherent : Obligations.ResetStateIsCoherent := State.reset_resting.coherent_of_released rfl

end Sys2Proof.Machine
end

section
/-! What changes the Frame and the deadline: every operation's effect on the two, and what a step without a reset can do to them,
and that a whole SEND leaves the Frame alone (R23, R24, R31, R177). -/

namespace Sys2Proof.Machine

/-- Where no reset comes next, a step goes on with a running SEND, or runs an operation on a block with the Frame and the deadline of
before, or leaves both as they are: the tick, a reserved word. -/
theorem step_effect_cases {s t : State} (h : step s = .next t) :
    s.resetNext ∨ (s.busy = true ∧ t = sequencerStep Config.hardware s) ∨
      (∃ i u, s.runs i ∧ u.frame = s.frame ∧ u.nextEdge = s.nextEdge ∧ t = effect i u) ∨
      (t.frame = s.frame ∧ t.nextEdge = s.nextEdge) := by
  rcases step_cases s with ⟨hrst, -⟩ | ⟨-, hreset, -⟩ | ⟨-, hbusy, heq⟩ | ⟨-, -, -, -, -, heq⟩ |
      ⟨hrst, hbusy, hbench, p, rest, hhost, hdue, heq⟩ | ⟨hrst, hbusy, b, rest, hbench, hdue, heq⟩
  · exact .inl (.inl hrst)
  · exact .inl hreset
  · rw [heq] at h
    cases h
    exact .inr (.inl ⟨hbusy, rfl⟩)
  · rw [heq] at h
    cases h
    exact .inr (.inr (.inr ⟨rfl, rfl⟩))
  · rcases runWord_cases p.word (s.acceptWord p rest) with ⟨i, hdecode, -, hrun⟩ | ⟨-, hrun⟩
    · have hruns : s.runs i := ⟨hrst, hbusy, .inl ⟨hbench, p, rest, hhost, hdue, hdecode⟩⟩
      rcases exec_cases i (s.acceptWord p rest) with hexec | hexec <;> rw [heq, hrun, hexec] at h <;> cases h
      · exact .inr (.inr (.inl ⟨i, s.acceptWord p rest, hruns, rfl, rfl, rfl⟩))
      · exact .inr (.inr (.inr ⟨rfl, rfl⟩))
    · rw [heq, hrun] at h
      cases h
      exact .inr (.inr (.inr ⟨rfl, rfl⟩))
  · rcases runLabel_cases b.label (s.enterBenched b rest) with ⟨i, hdecode, -, hrun⟩ | ⟨-, hrun⟩
    · have hruns : s.runs i := ⟨hrst, hbusy, .inr ⟨b, rest, hbench, hdue, hdecode⟩⟩
      rcases exec_cases i (s.enterBenched b rest) with hexec | hexec <;> rw [heq, hrun, hexec] at h <;> cases h
      · exact .inr (.inr (.inl ⟨i, s.enterBenched b rest, hruns, rfl, rfl, rfl⟩))
      · exact .inr (.inr (.inr ⟨rfl, rfl⟩))
    · rw [heq, hrun] at h
      cases h

/-! ### The Frame -/

/-- The Frame after SETDATA: its six value bytes. -/
def Frame.withValues (f : Frame) (p1 p2 p3 : Half) : Frame := ((f.setHalf 2 p1).setHalf 4 p2).setHalf 6 p3

/-- A write of DATATYPE or ADDRESS leaves the three value fields alone (R21). -/
theorem Frame.values_set (f : Frame) {i : Fin 8} (hi : i = 0 ∨ i = 1) (v : Byte) :
    (f.set i v).val1 = f.val1 ∧ (f.set i v).val2 = f.val2 ∧ (f.set i v).val3 = f.val3 := by
  rcases hi with rfl | rfl <;> exact ⟨rfl, rfl, rfl⟩

theorem setData_frame (temp humidity voltage : Single) (s : State) :
    ∃ p1 p2 p3, (setData Config.hardware temp humidity voltage s).frame = s.frame.withValues p1 p2 p3 := by
  obtain ⟨p1, p2, p3, n, heq⟩ := setData_hardware_eq temp humidity voltage s
  exact ⟨p1, p2, p3, by rw [heq]; rfl⟩

/-- What an operation does to the Frame: SETTYPE, SETADDR and SETDATA write their own bytes, every other operation none (R24). -/
theorem effect_frame_cases (i : Instr) (s : State) :
    (effect i s).frame = s.frame ∨ (∃ kind, i = .settype kind ∧ (effect i s).frame = s.frame.set 0 kind.raw) ∨
      (∃ addr, i = .setaddr addr ∧ (effect i s).frame = s.frame.set 1 addr) ∨
      ∃ temp humidity voltage p1 p2 p3,
        i = .setdata temp humidity voltage ∧ (effect i s).frame = s.frame.withValues p1 p2 p3 := by
  cases i with
  | init => exact .inl rfl
  | setaddr addr => exact .inr (.inr (.inl ⟨addr, rfl, rfl⟩))
  | settype kind => exact .inr (.inl ⟨kind, rfl, rfl⟩)
  | setdata temp humidity voltage =>
    obtain ⟨p1, p2, p3, hframe⟩ := setData_frame temp humidity voltage s
    exact .inr (.inr (.inr ⟨temp, humidity, voltage, p1, p2, p3, rfl, hframe⟩))
  | send => exact .inl (sendFrame_surroundings Config.hardware s).frame_eq
  | sendbit v => exact .inl (sendBit_surroundings Config.hardware v s).frame_eq
  | sendbyte b => exact .inl (sendByte_surroundings Config.hardware b s).frame_eq
  | eofmark => exact .inl (eofMark_surroundings Config.hardware s).frame_eq

/-- What a step does to the Frame where no reset comes next. -/
theorem step_frame_cases {s t : State} (h : step s = .next t) :
    s.resetNext ∨ t.frame = s.frame ∨ (∃ kind, s.runs (.settype kind) ∧ t.frame = s.frame.set 0 kind.raw) ∨
      (∃ addr, s.runs (.setaddr addr) ∧ t.frame = s.frame.set 1 addr) ∨
      ∃ temp humidity voltage p1 p2 p3,
        s.runs (.setdata temp humidity voltage) ∧ t.frame = s.frame.withValues p1 p2 p3 := by
  rcases step_effect_cases h with hreset | ⟨-, rfl⟩ | ⟨i, u, hruns, hframe, -, rfl⟩ | ⟨hframe, -⟩
  · exact .inl hreset
  · exact .inr (.inl (sequencerStep_surroundings Config.hardware s).frame_eq)
  · refine .inr ?_
    rw [← hframe]
    rcases effect_frame_cases i u with heq | ⟨kind, rfl, heq⟩ | ⟨addr, rfl, heq⟩ | ⟨temp, hum, volt, p1, p2, p3, rfl, heq⟩
    · exact .inl heq
    · exact .inr (.inl ⟨kind, hruns, heq⟩)
    · exact .inr (.inr (.inl ⟨addr, hruns, heq⟩))
    · exact .inr (.inr (.inr ⟨temp, hum, volt, p1, p2, p3, hruns, heq⟩))
  · exact .inr (.inl hframe)

/-- Settles O13: of the three writes a step can do to the Frame (`step_frame_cases`), SETTYPE's leaves every byte but `F[0]` alone,
SETADDR's every byte but `F[1]`, and SETDATA's those two. -/
theorem onlyItsCommandWritesAFrameByte : Obligations.OnlyItsCommandWritesAFrameByte := by
  intro s t hstep
  rcases step_frame_cases hstep with hreset | hframe | ⟨kind, hruns, hframe⟩ | ⟨addr, hruns, hframe⟩ |
      ⟨temp, humidity, voltage, p1, p2, p3, hruns, hframe⟩
  · exact ⟨fun _ => .inl hreset, fun _ => .inl hreset, fun _ => .inl hreset⟩
  · simp [hframe]
  · rw [hframe]
    have hvalues := Frame.values_set s.frame (.inl rfl) kind.raw
    exact ⟨fun _ => .inr ⟨kind, hruns⟩, fun hne => absurd rfl hne, by simp [hvalues]⟩
  · rw [hframe]
    have hvalues := Frame.values_set s.frame (.inr rfl) addr
    exact ⟨fun hne => absurd rfl hne, fun _ => .inr ⟨addr, hruns⟩, by simp [hvalues]⟩
  · rw [hframe]
    exact ⟨fun hne => absurd rfl hne, fun hne => absurd rfl hne, fun _ => .inr ⟨temp, humidity, voltage, hruns⟩⟩

/-! ### The deadline -/

/-- The setup of the Frame does not touch `NEXT_EDGE` (R31). -/
theorem setData_nextEdge (temp humidity voltage : Single) (s : State) :
    (setData Config.hardware temp humidity voltage s).nextEdge = s.nextEdge := by
  obtain ⟨p1, p2, p3, n, heq⟩ := setData_hardware_eq temp humidity voltage s
  rw [heq]
  rfl

/-- Settles O14: the operations that are not named set up the Frame, and leave the deadline alone. -/
theorem onlyTheBitClockWritesTheDeadline : Obligations.OnlyTheBitClockWritesTheDeadline := by
  intro s t hstep hne
  rcases step_effect_cases hstep with hreset | ⟨hbusy, -⟩ | ⟨i, u, hruns, -, hedge, rfl⟩ | ⟨-, hedge⟩
  · exact .inl hreset
  · exact .inr (.inl hbusy)
  · refine .inr (.inr ?_)
    cases i with
    | init => exact .inl hruns
    | setaddr addr => exact absurd hedge hne
    | settype kind => exact absurd hedge hne
    | setdata temp humidity voltage => exact absurd ((setData_nextEdge temp humidity voltage u).trans hedge) hne
    | send => exact .inr (.inl hruns)
    | sendbit v => exact .inr (.inr (.inr (.inl ⟨v, hruns⟩)))
    | sendbyte b => exact .inr (.inr (.inr (.inr ⟨b, hruns⟩)))
    | eofmark => exact .inr (.inr (.inl hruns))
  · exact absurd hedge hne

/-! ### SEND -/

/-- Settles O51: SEND answers its effect, or the same state where it is not accepted; both have the surroundings of before. -/
theorem sendLeavesTheFrameAlone : Obligations.SendLeavesTheFrameAlone := by
  intro s t hexec
  have hsame : SameSurroundings s t := by
    rcases exec_cases .send s with heq | heq <;> rw [heq] at hexec <;> cases hexec
    · exact sendFrame_surroundings Config.hardware s
    · exact .refl s
  obtain ⟨hframe, herr, hrst, hresets, hhost, hbench, hdraws⟩ := hsame
  exact ⟨hframe, herr, hrst, hresets, hhost, hbench, hdraws, State.readByte_congr hframe⟩

end Sys2Proof.Machine
end

section
/-! The slots of a transmission as micro-operations: what the sub-steps of one slot amount to (R28, R145, R176). -/

namespace Sys2Proof.Machine

/-- The entry of a slot that is not a data slot accumulates nothing. -/
theorem enterSlot_of_not_data {c : Config} {s : State} (h : ∀ idx bitPos, slotKind c s.slot.toNat ≠ .data idx bitPos) :
    enterSlot c s = s :=
  enterSlot_of_other_slot fun idx => h idx 0

/-- The bit a slot carries is the one it had before its entry: where the entry adds a byte to `SUM`, the bit is one of the Frame's, and
where it is one of the checksum's, the entry adds nothing. -/
theorem slotBit_enterSlot (c : Config) (s : State) : slotBit c (enterSlot c s) = slotBit c s := by
  by_cases hdata : ∃ idx bitPos, slotKind c s.slot.toNat = .data idx bitPos
  · obtain ⟨idx, bitPos, hkind⟩ := hdata
    obtain ⟨v, henter⟩ := enterSlot_eq_setSum c s
    simp [slotBit, henter, hkind]
  · rw [enterSlot_of_not_data fun idx bitPos hkind => hdata ⟨idx, bitPos, hkind⟩]

/-- The sub-steps of the pulse see the bit of the slot's entry. -/
theorem slotBit_of_open (c : Config) (l : Latency) (t : SubStep) (s : State) :
    slotBit c ((openPulse c l s).setPosition s.slot t) = slotBit c s := rfl

theorem enterSlot_slot (c : Config) (s : State) : (enterSlot c s).slot = s.slot := by
  obtain ⟨v, henter⟩ := enterSlot_eq_setSum c s
  rw [henter]
  rfl

/-- Where a new position is set, the one before does not matter. -/
theorem closePulse_setPosition (c : Config) (l : Latency) (v : Bool) (k k' : BitVec 7) (t t' : SubStep) (s : State) :
    (closePulse c l v (s.setPosition k t)).setPosition k' t' = (closePulse c l v s).setPosition k' t' := rfl

/-- The two sub-steps of a slot before the last are one SENDBIT of its bit. -/
theorem ordinary_slot_eq {c : Config} (hc : c.wellFormed = true) {s : State} (hsub : s.subStep = .wait)
    (hslot : s.slot.toNat + 1 < c.nSlots) :
    sequencerStep c (sequencerStep c s) =
      microGap c ((sendBit c (slotBit c s) (enterSlot c s)).setPosition (s.slot + 1) .wait) := by
  have hrise : sequencerStep c s = (openPulse c c.lat (enterSlot c s)).setPosition (enterSlot c s).slot .pulse := by
    rw [sequencerStep_of_wait c hsub, afterRise_eq hc, if_neg (by omega), enterSlot_slot]
  have hlt : (closePulse c c.lat (slotBit c s) (sequencerStep c s)).slot.toNat + 1 < c.nSlots := by
    rwa [(closePulse_position c _ _ _).slot_eq, hrise, State.setPosition_slot, enterSlot_slot]
  calc sequencerStep c (sequencerStep c s)
      = completeSlot c (closePulse c c.lat (slotBit c (sequencerStep c s)) (sequencerStep c s)) :=
        sequencerStep_of_pulse c (by rw [hrise]; rfl)
    _ = completeSlot c (closePulse c c.lat (slotBit c s) (sequencerStep c s)) := by
        rw [hrise, slotBit_of_open, slotBit_enterSlot]
    _ = microGap c ((closePulse c c.lat (slotBit c s) (sequencerStep c s)).setPosition (s.slot + 1) .wait) := by
        rw [completeSlot_of_lt hlt, (closePulse_position c _ _ _).slot_eq, hrise, State.setPosition_slot, enterSlot_slot]
    _ = microGap c ((sendBit c (slotBit c s) (enterSlot c s)).setPosition (s.slot + 1) .wait) := by
        rw [hrise, closePulse_setPosition]
        rfl

/-- The three sub-steps of the last slot are one EOFMARK and the exit of SEND. -/
theorem marker_slot_eq {c : Config} (hc : c.wellFormed = true) {s : State} (hsub : s.subStep = .wait)
    (hslot : s.slot.toNat + 1 = c.nSlots) :
    sequencerStep c (sequencerStep c (sequencerStep c s)) = finishSend (eofMark c s) := by
  have hkind : slotKind c s.slot.toNat = .marker := (slotKind_marker_iff c hc _).2 hslot.ge
  have henter : enterSlot c s = s := enterSlot_of_not_data (by simp [hkind])
  have hrise : sequencerStep c s = (openMarker c s).setPosition s.slot .eofHold := by
    rw [sequencerStep_of_wait c hsub, afterRise_eq hc, if_pos hslot.ge, henter]
    rfl
  have hhold : sequencerStep c (sequencerStep c s) = (holdMarker c (openMarker c s)).setPosition s.slot .eofPulse := by
    rw [sequencerStep_of_eofHold c (by rw [hrise]; rfl), hrise]
    rfl
  have hlast : c.nSlots ≤ (closeMarker c (sequencerStep c (sequencerStep c s))).slot.toNat + 1 := by
    rw [(closeMarker_position c _).slot_eq, hhold]
    exact hslot.ge
  rw [sequencerStep_of_eofPulse c (by rw [hhold]; rfl), completeSlot_of_last hlast, hhold]
  rfl

/-- Settles O49: a slot before the last is no marker, and the last one is (`afterRise_eq`). -/
theorem slotsAreSendbitsAndTheMarker : Obligations.SlotsAreSendbitsAndTheMarker :=
  fun _ _ hc hsub => ⟨ordinary_slot_eq hc hsub, marker_slot_eq hc hsub⟩

end Sys2Proof.Machine
end

section
/-! Stepping through a SEND: how many sub-steps are left at a position, that each sub-step takes one of them, and that the machine's
steps and the sequencer agree for as long as some are left (R26, R28; log 6). -/

namespace Sys2Proof.Machine

/-- How many sub-steps a SEND has left: two for each slot still to be entered, three for the marker (R26); none once it has exited. -/
def subStepsLeft (c : Config) (s : State) : Nat :=
  match s.busy, s.subStep with
  | false, _ => 0
  | true, .wait => 2 * (c.nSlots - s.slot.toNat) + 1
  | true, .pulse => 2 * (c.nSlots - s.slot.toNat)
  | true, .eofHold => 2
  | true, .eofPulse => 1

theorem subStepsLeft_of_idle (c : Config) {s : State} (h : s.busy = false) : subStepsLeft c s = 0 := by
  simp [subStepsLeft, h]

theorem busy_of_subStepsLeft_pos {c : Config} {s : State} (h : 0 < subStepsLeft c s) : s.busy = true := by
  by_contra hidle
  simp [subStepsLeft_of_idle c (Bool.eq_false_iff.2 hidle)] at h

/-- A SEND at its acceptance has all its sub-steps before it. -/
theorem subStepsLeft_acceptSend (c : Config) (s : State) : subStepsLeft c (acceptSend s) = subStepsOfSend c := rfl

/-- Nothing on `rst` is to come, and a SEND that runs is at a legal position (R28). -/
structure State.Unhindered (s : State) : Prop where
  released : s.rst = false
  no_reset : s.resets = []
  position : s.busy = true → LegalPosition s.slot s.subStep

theorem acceptSend_unhindered {s : State} (hrst : s.rst = false) (hresets : s.resets = []) : (acceptSend s).Unhindered :=
  ⟨hrst, hresets, fun _ => ⟨by simp [acceptSend], nofun, nofun⟩⟩

/-- A sub-step that ends at a legal position keeps the SEND unhindered. -/
theorem State.Unhindered.sequencerStep {s : State} (h : s.Unhindered) (c : Config)
    (hposition : LegalPosition (sequencerStep c s).slot (sequencerStep c s).subStep) : (sequencerStep c s).Unhindered :=
  have ⟨_, _, hrst, hresets, _⟩ := sequencerStep_surroundings c s
  ⟨hrst.trans h.released, hresets.trans h.no_reset, fun _ => hposition⟩

/-- No slot before the last is numbered past the seven bits of `SLOT` (R26). -/
theorem slot_succ_toNat {k : BitVec 7} (h : k.toNat + 1 < Config.hardware.nSlots) : (k + 1).toNat = k.toNat + 1 := by
  simp only [Config.hardware_nSlots] at h
  rw [BitVec.toNat_add_of_lt] <;> simp; omega

/-- Where the rising edge leaves the sequencer: in the same slot, in the sub-step after the rise (R26). -/
theorem sequencerStep_wait_position (c : Config) {s : State} (h : s.subStep = .wait) :
    (sequencerStep c s).busy = s.busy ∧ (sequencerStep c s).slot = s.slot ∧ (sequencerStep c s).subStep = afterRise c s := by
  obtain ⟨v, henter⟩ := enterSlot_eq_setSum c s
  rw [sequencerStep_of_wait c h, henter]
  exact ⟨rfl, rfl, rfl⟩

/-- Where the falling edge of an ordinary slot leaves it: at the entry of the next slot (R28). -/
theorem sequencerStep_pulse_position {c : Config} {s : State} (h : s.subStep = .pulse) (hnext : s.slot.toNat + 1 < c.nSlots) :
    (sequencerStep c s).busy = s.busy ∧ (sequencerStep c s).slot = s.slot + 1 ∧ (sequencerStep c s).subStep = .wait := by
  rw [sequencerStep_of_pulse c h, completeSlot_of_lt (s := closePulse c c.lat (slotBit c s) s) hnext]
  exact ⟨rfl, rfl, rfl⟩

/-- Where the hold leaves it: in the same slot, before the marker's final bit (R26, R176). -/
theorem sequencerStep_eofHold_position (c : Config) {s : State} (h : s.subStep = .eofHold) :
    (sequencerStep c s).busy = s.busy ∧ (sequencerStep c s).slot = s.slot ∧ (sequencerStep c s).subStep = .eofPulse := by
  rw [sequencerStep_of_eofHold c h]
  exact ⟨rfl, rfl, rfl⟩

/-- The marker's final bit in the last slot is the end of the SEND (R28). -/
theorem sequencerStep_eofPulse_exits {c : Config} {s : State} (h : s.subStep = .eofPulse) (hlast : c.nSlots ≤ s.slot.toNat + 1) :
    (sequencerStep c s).busy = false ∧ (sequencerStep c s).slot = 0 ∧ (sequencerStep c s).subStep = .wait := by
  rw [sequencerStep_of_eofPulse c h, completeSlot_of_last (s := closeMarker c s) hlast]
  exact ⟨rfl, rfl, rfl⟩

/-- Every sub-step of a running SEND ends at a legal position and leaves one sub-step less to do (R26, R28). -/
theorem sequencerStep_takes_one {s : State} (hbusy : s.busy = true) (h : LegalPosition s.slot s.subStep) :
    LegalPosition (sequencerStep Config.hardware s).slot (sequencerStep Config.hardware s).subStep ∧
      subStepsLeft Config.hardware (sequencerStep Config.hardware s) + 1 = subStepsLeft Config.hardware s := by
  have hrange := h.in_range
  cases hsub : s.subStep with
  | wait =>
    obtain ⟨kbusy, kslot, ksub⟩ := sequencerStep_wait_position Config.hardware hsub
    refine ⟨by rw [kslot, ksub]; exact afterRise_legal hrange, ?_⟩
    rw [afterRise_eq Config.hardware_wellFormed] at ksub
    split at ksub
    · simp only [subStepsLeft, kbusy, ksub, hbusy, hsub]
      omega
    · simp only [subStepsLeft, kbusy, kslot, ksub, hbusy, hsub]
  | pulse =>
    have hslot := h.pulse_slot hsub
    have hnext : s.slot.toNat + 1 < Config.hardware.nSlots := by omega
    have hsucc := slot_succ_toNat hnext
    obtain ⟨kbusy, kslot, ksub⟩ := sequencerStep_pulse_position hsub hnext
    refine ⟨by rw [kslot, ksub]; exact ⟨hsucc.trans_lt hnext, nofun, nofun⟩, ?_⟩
    simp only [subStepsLeft, kbusy, kslot, ksub, hbusy, hsub, hsucc]
    omega
  | eofHold =>
    obtain ⟨kbusy, kslot, ksub⟩ := sequencerStep_eofHold_position Config.hardware hsub
    refine ⟨by rw [kslot, ksub]; exact ⟨hrange, nofun, fun _ => h.marker_slot (.inl hsub)⟩, ?_⟩
    simp only [subStepsLeft, kbusy, ksub, hbusy, hsub]
  | eofPulse =>
    have hslot := h.marker_slot (.inr hsub)
    obtain ⟨kbusy, kslot, ksub⟩ := sequencerStep_eofPulse_exits (c := Config.hardware) hsub (by omega)
    refine ⟨by rw [kslot, ksub]; exact ⟨by simp, nofun, nofun⟩, ?_⟩
    simp only [subStepsLeft, kbusy, hbusy, hsub]

/-- With no reset to come, a step of the machine in a running SEND is a sub-step of the sequencer. -/
theorem step_of_busy {s : State} (hrst : s.rst = false) (hbusy : s.busy = true) (hresets : s.resets = []) :
    step s = .next (sequencerStep Config.hardware s) := by
  simp [step, stepBusy, hrst, hbusy, resetDue_of_nil hresets]

theorem run_succ_of_step {s t : State} (h : step s = .next t) (n : Nat) :
    Host.Core.run Sys2Proof.core (n + 1) s = Host.Core.run Sys2Proof.core n t := by
  have hcore : Sys2Proof.core.step s = .next t := h
  simp only [Host.Core.run, hcore]

/-- As long as sub-steps are left, so many steps of the machine are so many sub-steps of the sequencer. -/
theorem run_eq_runSequencer (n : Nat) {s : State} (h : s.Unhindered) (hn : n ≤ subStepsLeft Config.hardware s) :
    Host.Core.run Sys2Proof.core n s = .next (runSequencer Config.hardware n s) := by
  induction n generalizing s with
  | zero => rfl
  | succ n ih =>
    have hbusy : s.busy = true := busy_of_subStepsLeft_pos (Nat.zero_lt_of_lt hn)
    obtain ⟨hposition, hleft⟩ := sequencerStep_takes_one hbusy (h.position hbusy)
    calc Host.Core.run Sys2Proof.core (n + 1) s
        = Host.Core.run Sys2Proof.core n (sequencerStep Config.hardware s) :=
          run_succ_of_step (step_of_busy h.released hbusy h.no_reset) n
      _ = .next (runSequencer Config.hardware n (sequencerStep Config.hardware s)) :=
          ih (h.sequencerStep _ hposition) (by omega)
      _ = .next (runSequencer Config.hardware (n + 1) s) := by
          rw [runSequencer_succ _ n s hbusy (resetDue_of_nil h.no_reset _)]

/-- Settles O50: a SEND just accepted has its 187 sub-steps left, and exec answers what the sequencer makes of them. -/
theorem steppingThroughASendReachesItsEnd : Obligations.SteppingThroughASendReachesItsEnd := by
  intro s hbusy hrst hresets
  have hrun : Host.Core.run Sys2Proof.core 187 (acceptSend s) = .next (effect .send s) :=
    run_eq_runSequencer 187 (acceptSend_unhindered hrst hresets) (subStepsLeft_acceptSend Config.hardware s).ge
  exact hrun.trans (exec_command rfl hbusy hrst).symm

end Sys2Proof.Machine
end

section
/-! The Frame as memory: what a running SEND leaves alone, that a setup command written twice is written once, and that the setup
commands commute, since they write disjoint bytes (R52, R57, R58, R214). -/

namespace Sys2Proof.Machine

/-! ### A running SEND -/

/-- A running SEND that no reset cuts goes on by one sub-step. -/
theorem step_of_busy_of_not_due {s : State} (hrst : s.rst = false) (hbusy : s.busy = true)
    (hdue : s.resetDue (sequencerStep Config.hardware s).now = false) :
    step s = .next (sequencerStep Config.hardware s) := by
  simp [step, stepBusy, hrst, hbusy, hdue]

/-- Settles O12: the step is a sub-step of the sequencer, which leaves its surroundings alone; what is read follows the Frame. -/
theorem runningSendHoldsTheFrameAndTheHost : Obligations.RunningSendHoldsTheFrameAndTheHost := by
  intro s t hrst hbusy hdue hstep
  rw [step_of_busy_of_not_due hrst hbusy hdue] at hstep
  cases hstep
  obtain ⟨hframe, herr, hrst', hresets, hhost, hbench, hdraws⟩ := sequencerStep_surroundings Config.hardware s
  exact ⟨hframe, herr, hrst', hresets, hhost, hbench, hdraws, State.readByte_congr hframe⟩

/-! ### Writes of the same bytes -/

/-- Of two writes of one byte the second stands. -/
theorem Frame.set_set_same (f : Frame) (i : Fin 8) (v w : Byte) : (f.set i v).set i w = f.set i w := by
  fin_cases i <;> rfl

theorem State.setByte_setByte_same (s : State) (i : Fin 8) (v w : Byte) : (s.setByte i v).setByte i w = s.setByte i w := by
  simp only [State.setByte, Frame.set_set_same]

/-- The Frame after the write of the value bytes, byte by byte: little-endian from `F[2]` on (R53, R85). -/
theorem Frame.withValues_eq (f : Frame) (p1 p2 p3 : Half) :
    f.withValues p1 p2 p3 =
      { f0 := f.f0, f1 := f.f1
        f2 := p1.extractLsb' 0 8, f3 := p1.extractLsb' 8 8
        f4 := p2.extractLsb' 0 8, f5 := p2.extractLsb' 8 8
        f6 := p3.extractLsb' 0 8, f7 := p3.extractLsb' 8 8 } := rfl

theorem State.setValues_eq (s : State) (p1 p2 p3 : Half) :
    s.setValues p1 p2 p3 = { s with frame := s.frame.withValues p1 p2 p3 } := rfl

/-- Of two writes of the value bytes the second stands. -/
theorem State.setValues_setValues_same (s : State) (p1 p2 p3 q1 q2 q3 : Half) :
    (s.setValues p1 p2 p3).setValues q1 q2 q3 = s.setValues q1 q2 q3 := by
  simp only [State.setValues_eq, Frame.withValues_eq]

theorem Conversion.exists_integer {r : Conversion} (h : r ≠ .nonfinite) : ∃ i, r = .integer i := by
  cases r with
  | integer i => exact ⟨i, rfl⟩
  | nonfinite => exact absurd rfl h

/-- SETDATA of three finite conversions draws nothing, so the second time it stores the same patterns (R58, R126). -/
theorem setData_idempotent {temp humidity voltage : Single} (htemp : fx .binary32Stepwise temp Config.offsetT ≠ .nonfinite)
    (hhum : fx .binary32Stepwise humidity Config.offsetH ≠ .nonfinite)
    (hvolt : fx .binary32Stepwise voltage Config.offsetV ≠ .nonfinite) (s : State) :
    setData Config.hardware temp humidity voltage (setData Config.hardware temp humidity voltage s) =
      setData Config.hardware temp humidity voltage s := by
  obtain ⟨i1, h1⟩ := Conversion.exists_integer htemp
  obtain ⟨i2, h2⟩ := Conversion.exists_integer hhum
  obtain ⟨i3, h3⟩ := Conversion.exists_integer hvolt
  simp only [fun u => setData_hardware_integers u h1 h2 h3, State.setValues_setValues_same]

/-- An operation whose effect is idempotent stays at the state it leads to, accepted or not. -/
theorem exec_fixed_of_effect_idempotent {i : Instr} {s t : State} (hidem : effect i (effect i s) = effect i s)
    (hexec : exec i s = .next t) : exec i t = .next t := by
  rcases exec_cases i s with heq | heq
  · obtain rfl : effect i s = t := by simpa [heq] using hexec
    rcases exec_cases i (effect i s) with hagain | hagain
    · rw [hagain, hidem]
    · exact hagain
  · obtain rfl : s = t := by simpa [heq] using hexec
    exact hexec

/-- Settles O24: the effect of each of the three commands is idempotent. -/
theorem setupCommandsAreIdempotent : Obligations.SetupCommandsAreIdempotent := by
  intro i s t hsetup
  refine exec_fixed_of_effect_idempotent ?_
  rcases hsetup with ⟨addr, rfl⟩ | ⟨kind, rfl⟩ | ⟨temp, humidity, voltage, rfl, htemp, hhum, hvolt⟩
  · exact State.setByte_setByte_same s 1 addr addr
  · exact State.setByte_setByte_same s 0 kind.raw kind.raw
  · exact setData_idempotent htemp hhum hvolt s

/-! ### Writes of disjoint bytes -/

/-- Writes of two different bytes commute. -/
theorem Frame.set_comm (f : Frame) {i j : Fin 8} (h : i ≠ j) (v w : Byte) : (f.set i v).set j w = (f.set j w).set i v := by
  refine Frame.ext_get _ _ fun k => ?_
  by_cases hi : k = i
  · simp [hi, h]
  · by_cases hj : k = j
    · simp [hj, h.symm]
    · simp [hi, hj]

theorem State.setByte_comm (s : State) {i j : Fin 8} (h : i ≠ j) (v w : Byte) :
    (s.setByte i v).setByte j w = (s.setByte j w).setByte i v := by
  simp only [State.setByte, Frame.set_comm s.frame h]

/-- A write of DATATYPE or ADDRESS commutes with the write of the value bytes (R23). -/
theorem State.setByte_setValues (s : State) {i : Fin 8} (hi : i = 0 ∨ i = 1) (v : Byte) (p1 p2 p3 : Half) :
    (s.setByte i v).setValues p1 p2 p3 = (s.setValues p1 p2 p3).setByte i v := by
  rcases hi with rfl | rfl <;> rfl

theorem State.setByte_addDraws (s : State) (i : Fin 8) (v : Byte) (n : Nat) :
    (s.setByte i v).addDraws n = (s.addDraws n).setByte i v := rfl

/-- What SETDATA writes and how much it draws depends on nothing of the state but the draws so far (R127, R130). -/
theorem setData_of_same_draws (temp humidity voltage : Single) {s u : State} (hdraws : u.draws = s.draws) :
    ∃ p1 p2 p3 n, setData Config.hardware temp humidity voltage s = (s.setValues p1 p2 p3).addDraws n ∧
      setData Config.hardware temp humidity voltage u = (u.setValues p1 p2 p3).addDraws n := by
  refine ⟨_, _, _, _, rfl, ?_⟩
  rw [← hdraws]
  rfl

/-- A write of DATATYPE or ADDRESS commutes with SETDATA, whose draws it does not touch (R52, R214). -/
theorem setData_setByte (temp humidity voltage : Single) (s : State) {i : Fin 8} (hi : i = 0 ∨ i = 1) (v : Byte) :
    setData Config.hardware temp humidity voltage (s.setByte i v) =
      (setData Config.hardware temp humidity voltage s).setByte i v := by
  obtain ⟨p1, p2, p3, n, hs, hwritten⟩ :=
    setData_of_same_draws temp humidity voltage (State.setByte_draws i v s)
  calc setData Config.hardware temp humidity voltage (s.setByte i v)
      = ((s.setByte i v).setValues p1 p2 p3).addDraws n := hwritten
    _ = ((s.setValues p1 p2 p3).setByte i v).addDraws n := by rw [State.setByte_setValues s hi]
    _ = ((s.setValues p1 p2 p3).addDraws n).setByte i v := State.setByte_addDraws _ i v n
    _ = (setData Config.hardware temp humidity voltage s).setByte i v := by rw [hs]

theorem setData_busy (temp humidity voltage : Single) (s : State) :
    (setData Config.hardware temp humidity voltage s).busy = s.busy := by
  obtain ⟨p1, p2, p3, n, heq⟩ := setData_hardware_eq temp humidity voltage s
  rw [heq]
  rfl

/-- Two commands in a row, of which the first leaves the block idle: both are accepted (R198). -/
theorem execAll_pair {i j : Instr} {s : State} (hi : i.issuedBy .host = true) (hj : j.issuedBy .host = true)
    (hrst : s.rst = false) (hbusy : s.busy = false) (hidle : (effect i s).busy = s.busy) :
    execAll [i, j] s = .next (effect j (effect i s)) := by
  have hfirst : exec i s = .next (effect i s) := exec_command hi hbusy hrst
  have hsecond : exec j (effect i s) = .next (effect j (effect i s)) :=
    exec_command hj (hidle.trans hbusy) ((effect_rst i s).trans hrst)
  simp only [execAll, hfirst, hsecond]

/-- Two commands that leave the block idle and whose effects commute lead to the same outcome in either order. -/
theorem execAll_comm {i j : Instr} {s : State} (hi : i.issuedBy .host = true) (hj : j.issuedBy .host = true)
    (hrst : s.rst = false) (hbusy : s.busy = false) (hidle_i : (effect i s).busy = s.busy)
    (hidle_j : (effect j s).busy = s.busy) (hcomm : effect j (effect i s) = effect i (effect j s)) :
    execAll [i, j] s = execAll [j, i] s := by
  rw [execAll_pair hi hj hrst hbusy hidle_i, execAll_pair hj hi hrst hbusy hidle_j, hcomm]

/-- Settles O25: the three commands leave the block idle and their effects commute in pairs. -/
theorem setupOrderDoesNotMatter : Obligations.SetupOrderDoesNotMatter := by
  intro addr kind temp humidity voltage s hbusy hrst
  have hdata : (effect (.setdata temp humidity voltage) s).busy = s.busy := setData_busy temp humidity voltage s
  refine ⟨execAll_comm rfl rfl hrst hbusy rfl rfl ?_, execAll_comm rfl rfl hrst hbusy rfl hdata ?_,
    execAll_comm rfl rfl hrst hbusy rfl hdata ?_⟩
  · exact State.setByte_comm s (by decide) addr kind.raw
  · exact setData_setByte temp humidity voltage s (.inr rfl) addr
  · exact setData_setByte temp humidity voltage s (.inl rfl) kind.raw

end Sys2Proof.Machine
end

section
/-! The decoder and the encoder: what a command word and a label decode to, one case for each row of the tables, and the words the
encoder writes for them (R80 to R87, R93). -/

namespace Sys2Proof.Machine

/-! ### Command words -/

/-- Every command word is put together from its four fields (R80). -/
theorem commandWord_fields (cw : CommandWord) : commandWord (opField cw) (aField cw) (bField cw) (cField cw) = cw := by
  apply BitVec.eq_of_toNat_eq
  have := cw.isLt
  simp only [commandWord_toNat, opField, aField, bField, cField, BitVec.extractLsb'_toNat, Nat.shiftRight_eq_div_pow]
  omega

/-- The kind byte of SETTYPE is the raw value of a tag, or reserved (R83, R87). -/
theorem decodeKind_cases (low : Byte) :
    (∃ kind : DataType, low = kind.raw ∧ decodeKind low = .ok (.settype kind)) ∨
      (2 ≤ low.toNat ∧ decodeKind low = .error (.reservedKind low)) := by
  unfold decodeKind
  split
  · next h => exact .inl ⟨.htv, BitVec.eq_of_toNat_eq h, rfl⟩
  · next h => exact .inl ⟨.none, BitVec.eq_of_toNat_eq h, rfl⟩
  · next h0 h1 => exact .inr ⟨by grind, rfl⟩

/-- What a command word decodes to: one case for each row of the opcode table, and the two reserved forms (R81, R86, R87). -/
theorem decodeCommand_cases (cw : CommandWord) :
    (opField cw = 0x00#8 ∧ decodeCommand cw = .ok .init) ∨
      (opField cw = 0x01#8 ∧ decodeCommand cw = .ok (.setaddr (lowByte cw))) ∨
      (opField cw = 0x02#8 ∧ ∃ kind : DataType, lowByte cw = kind.raw ∧ decodeCommand cw = .ok (.settype kind)) ∨
      (opField cw = 0x03#8 ∧ decodeCommand cw = .ok (.setdata (aField cw) (bField cw) (cField cw))) ∨
      (opField cw = 0x04#8 ∧ decodeCommand cw = .ok .send) ∨
      (opField cw = 0x02#8 ∧ 2 ≤ (lowByte cw).toNat ∧ decodeCommand cw = .error (.reservedKind (lowByte cw))) ∨
      (5 ≤ (opField cw).toNat ∧ decodeCommand cw = .error (.reservedOpcode (opField cw))) := by
  have hop {n : Byte} (h : (opField cw).toNat = n.toNat) : opField cw = n := BitVec.eq_of_toNat_eq h
  unfold decodeCommand
  split
  · next h => exact .inl ⟨hop h, rfl⟩
  · next h => exact .inr (.inl ⟨hop h, rfl⟩)
  · next h =>
    rcases decodeKind_cases (lowByte cw) with hkind | hreserved
    · exact .inr (.inr (.inl ⟨hop h, hkind⟩))
    · exact .inr (.inr (.inr (.inr (.inr (.inl ⟨hop h, hreserved⟩)))))
  · next h => exact .inr (.inr (.inr (.inl ⟨hop h, rfl⟩)))
  · next h => exact .inr (.inr (.inr (.inr (.inl ⟨hop h, rfl⟩))))
  · exact .inr (.inr (.inr (.inr (.inr (.inr ⟨by grind, rfl⟩)))))

theorem decodeKind_raw (kind : DataType) : decodeKind kind.raw = .ok (.settype kind) := by
  cases kind <;> rfl

/-- An operand byte, zero-extended to the third operand, is read back as the low byte (R81). -/
theorem lowByte_commandWord (op : Byte) (a b : Single) (low : Byte) : lowByte (commandWord op a b (low.setWidth 32)) = low := by
  rw [lowByte_eq, cField_commandWord, BitVec.setWidth_setWidth_of_le low (by decide), BitVec.setWidth_eq]

/-- Settles O1, row by row: the encoder writes the row's `OP` or selector, and the operands are read back from their fields. -/
theorem decodeOfEncodeGivesTheOperation : Obligations.DecodeOfEncodeGivesTheOperation := by
  intro i
  cases i with
  | init => simp [decode, encode, decodeCommand]
  | setaddr addr => simp [decode, encode, decodeCommand, lowByte_commandWord]
  | settype kind => simp [decode, encode, decodeCommand, lowByte_commandWord, decodeKind_raw]
  | setdata temp humidity voltage => simp [decode, encode, decodeCommand]
  | send => simp [decode, encode, decodeCommand]
  | sendbit v => cases v <;> simp [decode, encode, decodeMicro]
  | sendbyte b => simp [decode, encode, decodeMicro]
  | eofmark => simp [decode, encode, decodeMicro]

/-! ### The bits an operation uses -/

/-- The bits of a command word under a mask: `OP` whole, the first two operands not at all, of the third what its mask keeps. -/
theorem and_mask_eq (cw : CommandWord) (mask : Single) :
    cw &&& commandWord 0xFF#8 0#32 0#32 mask = commandWord (opField cw) 0#32 0#32 (cField cw &&& mask) := by
  have hop : opField cw &&& 0xFF#8 = opField cw := BitVec.and_allOnes
  have hzero (x : Single) : x &&& 0#32 = 0#32 := BitVec.and_zero
  conv_lhs => rw [← commandWord_fields cw]
  rw [Laws.commandWord_and, hop, hzero, hzero]

/-- The low byte of the third operand is what the mask of SETADDR and SETTYPE keeps of it. -/
theorem cField_and_lowMask (cw : CommandWord) : cField cw &&& 0xFF#32 = (lowByte cw).setWidth 32 := by
  apply BitVec.eq_of_toNat_eq
  have hmask : (cField cw).toNat &&& 255 = (cField cw).toNat % 256 := Nat.and_two_pow_sub_one_eq_mod _ 8
  rw [lowByte_eq]
  simp only [BitVec.toNat_and, BitVec.toNat_setWidth, BitVec.toNat_ofNat, hmask]
  omega

/-- SETDATA uses every bit of its word (R81). -/
theorem and_usedBits_setdata (cw : CommandWord) (temp humidity voltage : Single) :
    cw &&& usedBits (.setdata temp humidity voltage) = cw := BitVec.and_allOnes

/-- A command word that decodes agrees with the encoder's word on the bits the command uses (R81, R82). -/
theorem encode_of_decodeCommand {cw : CommandWord} {i : Instr} (h : decodeCommand cw = .ok i) :
    encode i = .command (cw &&& usedBits i) := by
  rcases decodeCommand_cases cw with ⟨hop, hd⟩ | ⟨hop, hd⟩ | ⟨hop, kind, hkind, hd⟩ | ⟨hop, hd⟩ | ⟨hop, hd⟩ | ⟨-, -, hd⟩ |
      ⟨-, hd⟩ <;> rw [hd] at h <;> cases h
  · simp [encode, usedBits, and_mask_eq, hop]
  · simp [encode, usedBits, and_mask_eq, cField_and_lowMask, hop]
  · simp [encode, usedBits, and_mask_eq, cField_and_lowMask, hop, hkind]
  · simp [encode, and_usedBits_setdata, ← hop, commandWord_fields]
  · simp [encode, usedBits, and_mask_eq, hop]

/-! ### Labels -/

theorem microLabel_fields (uop : MicroLabel) : microLabel (selField uop) (operandField uop) = uop := by
  apply BitVec.eq_of_toNat_eq
  have := uop.isLt
  simp only [microLabel_toNat, selField, operandField, BitVec.extractLsb'_toNat, Nat.shiftRight_eq_div_pow]
  omega

/-- A label is fixed by the numbers its two fields hold (R93). -/
theorem eq_microLabel {uop : MicroLabel} {sel : BitVec 2} {operand : Byte} (hsel : (selField uop).toNat = sel.toNat)
    (hoperand : (operandField uop).toNat = operand.toNat) : uop = microLabel sel operand := by
  rw [← microLabel_fields uop, BitVec.eq_of_toNat_eq hsel, BitVec.eq_of_toNat_eq hoperand]

/-- A label that decodes is the encoder's label (R93). -/
theorem encode_of_decodeMicro {uop : MicroLabel} {i : Instr} (h : decodeMicro uop = .ok i) : encode i = .micro uop := by
  unfold decodeMicro at h
  split at h <;> cases h
  · next hsel hoperand => exact congrArg Code.micro (eq_microLabel hsel hoperand).symm
  · next hsel hoperand => exact congrArg Code.micro (eq_microLabel hsel hoperand).symm
  · next hsel => exact congrArg Code.micro (eq_microLabel hsel rfl).symm
  · next hsel hoperand => exact congrArg Code.micro (eq_microLabel hsel hoperand).symm

/-- Settles O2: both decoders, inverted. -/
theorem decodedWordsAgreeOnTheUsedBits : Obligations.DecodedWordsAgreeOnTheUsedBits :=
  ⟨fun _ _ => encode_of_decodeCommand, fun _ _ => encode_of_decodeMicro⟩

/-! ### Reserved words -/

/-- `CW[7:1]` is not 0 exactly if the kind byte is 2 or more (R87). -/
theorem kindBits_ne_zero_iff (cw : CommandWord) : cw.extractLsb' 1 7 ≠ 0#7 ↔ 2 ≤ (lowByte cw).toNat := by
  simp only [ne_eq, ← BitVec.toNat_inj, lowByte, BitVec.extractLsb'_toNat, Nat.shiftRight_eq_div_pow, BitVec.toNat_ofNat]
  omega

/-- Settles O3: of the seven cases of a command word the two reserved ones are those of the statement. -/
theorem reservedCommandWordsAreThoseOfTheTable : Obligations.ReservedCommandWordsAreThoseOfTheTable := by
  intro cw
  change _ ↔ 5 ≤ (opField cw).toNat ∨ ((opField cw).toNat = 2 ∧ _)
  rw [kindBits_ne_zero_iff]
  rcases decodeCommand_cases cw with ⟨hop, hd⟩ | ⟨hop, hd⟩ | ⟨hop, kind, hkind, hd⟩ | ⟨hop, hd⟩ | ⟨hop, hd⟩ |
      ⟨hop, hlow, hd⟩ | ⟨hop, hd⟩
  · simp [hd, hop]
  · simp [hd, hop]
  · cases kind <;> simp [hd, hop, hkind, DataType.raw]
  · simp [hd, hop]
  · simp [hd, hop]
  · simp [hd, hop, hlow]
  · simp [hd, hop]

/-- Settles O4: each word is the one its row of the table names, evaluated by the decoder. -/
theorem writtenOutWordsDecode : Obligations.WrittenOutWordsDecode := by
  refine ⟨?_, ?_, ?_, ?_, ?_, ?_, ?_, ?_⟩ <;> decide

/-! ### The 13 bytes of a command word -/

/-- One byte more: the byte below what has been read so far goes below it. -/
theorem shiftLeft_or_nextByte (cw : CommandWord) (k : Nat) :
    (cw >>> (k + 8)) <<< 8 ||| (cw.extractLsb' k 8).setWidth 104 = cw >>> k := by
  apply BitVec.eq_of_getLsbD_eq
  intro i hi
  by_cases hlow : i < 8
  · simp [hlow, hi]
  · have hpos : k + 8 + (i - 8) = k + i := by omega
    simp [hlow, hi, hpos]

/-- The first `n` of the 13 bytes, read back, are the word without its low `13 − n` bytes (R80). -/
theorem commandOfBytes_firstBytes (cw : CommandWord) (n : Nat) (hn : n ≤ 13) :
    commandOfBytes ((List.range n).map fun i => cw.extractLsb' (8 * (12 - i)) 8) = cw >>> (8 * (13 - n)) := by
  induction n with
  | zero => exact (BitVec.ushiftRight_eq_zero (by decide)).symm
  | succ n ih =>
    have hshift : 8 * (13 - n) = 8 * (12 - n) + 8 := by omega
    have hrest : 13 - (n + 1) = 12 - n := by omega
    rw [List.range_succ, List.map_append, hrest, ← shiftLeft_or_nextByte, ← hshift, ← ih (by omega)]
    simp only [commandOfBytes, List.foldl_append, List.map_cons, List.map_nil, List.foldl_cons, List.foldl_nil]

theorem commandOfBytes_bytesOfCommand (cw : CommandWord) : commandOfBytes (bytesOfCommand cw) = cw := by
  exact commandOfBytes_firstBytes cw 13 le_rfl |>.trans (BitVec.ushiftRight_zero cw)

/-- Settles O5: the bytes are 13, and read back they are the word. -/
theorem bytesAndWordDecodeAlike : Obligations.BytesAndWordDecodeAlike := by
  intro cw
  have hlength : (bytesOfCommand cw).length = 13 := by simp [bytesOfCommand]
  simp only [decodeBytes, hlength, if_true, commandOfBytes_bytesOfCommand]

end Sys2Proof.Machine
end

section
/-! Reserved words and the bench: what a step does with a word or a label that no operation has, and that a micro-operation runs
alone on a bench only (R86, R87, R93; log 8, log 9, log 10). -/

namespace Sys2Proof.Machine

theorem runWord_of_reserved {cw : CommandWord} (h : ∀ i, decodeCommand cw ≠ .ok i) (s : State) : runWord cw s = .next s := by
  rcases runWord_cases cw s with ⟨i, hdecode, -⟩ | ⟨-, hrun⟩
  · exact absurd hdecode (h i)
  · exact hrun

/-- Settles O7: the word is accepted, and the acceptance is all it does. -/
theorem reservedCommandChangesNothing : Obligations.ReservedCommandChangesNothing := by
  intro s p rest hrst hbusy hbench hhost hdue hreserved
  calc step s
      = stepHost s := step_of_idle hrst hbusy hbench
    _ = runWord p.word (s.acceptWord p rest) := stepHost_of_presented hhost hdue
    _ = .next (s.acceptWord p rest) := runWord_of_reserved hreserved _

/-! ### The bench -/

/-- An idle, released block enters the label next on its bench (log 8). -/
theorem step_of_benched {s : State} {b : Benched} {rest : List Benched} (hrst : s.rst = false) (hbusy : s.busy = false)
    (hbench : s.bench = b :: rest) (hdue : s.resetDue (benchTime s b) = false) :
    step s = runLabel b.label (s.enterBenched b rest) := by
  simp [step, stepIdle, hrst, hbusy, hbench, hdue]

theorem runLabel_of_decodes {uop : MicroLabel} {i : Instr} (h : decodeMicro uop = .ok i) (s : State) :
    runLabel uop s = exec i s := by
  simp [runLabel, h]

theorem runLabel_of_reserved {uop : MicroLabel} (h : ∀ i, decodeMicro uop ≠ .ok i) (s : State) :
    runLabel uop s = .refused (.reservedLabel uop) := by
  rcases runLabel_cases uop s with ⟨i, hdecode, -⟩ | ⟨-, hrun⟩
  · exact absurd hdecode (h i)
  · exact hrun

/-- A label of one of the three reserved forms (R93, U22). -/
def ReservedForm (uop : MicroLabel) : Prop :=
  uop.extractLsb' 8 2 = 3#2 ∨ (uop.extractLsb' 8 2 = 2#2 ∧ uop.extractLsb' 0 8 ≠ 0#8) ∨
    (uop.extractLsb' 8 2 = 0#2 ∧ uop.extractLsb' 1 7 ≠ 0#7)

/-- No label the encoder writes has a reserved form. -/
theorem not_reservedForm_of_encode {i : Instr} {uop : MicroLabel} (h : encode i = .micro uop) : ¬ ReservedForm uop := by
  cases i with
  | init => cases h
  | setaddr addr => cases h
  | settype kind => cases h
  | setdata temp humidity voltage => cases h
  | send => cases h
  | sendbit v => cases h; cases v <;> simp [ReservedForm, microLabel]
  | sendbyte b =>
    cases h
    have hsel : (microLabel 1#2 b).extractLsb' 8 2 = 1#2 := selField_microLabel 1#2 b
    simp [ReservedForm, hsel]
  | eofmark => cases h; simp [ReservedForm, microLabel]

/-- Settles O8: a label that decodes is the encoder's, which has no reserved form. -/
theorem reservedLabelIsRefused : Obligations.ReservedLabelIsRefused := by
  intro s b rest hrst hbusy hbench hdue hreserved
  have hnone : ∀ i, decodeMicro b.label ≠ .ok i := fun i hdecode =>
    not_reservedForm_of_encode (encode_of_decodeMicro hdecode) hreserved
  calc step s
      = runLabel b.label (s.enterBenched b rest) := step_of_benched hrst hbusy hbench hdue
    _ = .refused (.reservedLabel b.label) := runLabel_of_reserved hnone _

/-! ### Who issues a micro-operation -/

/-- A command is no micro-operation (R93). -/
theorem not_issuedBy_sequencer {i : Instr} (h : i.issuedBy .host = true) : i.issuedBy .sequencer = false := by
  cases i with
  | init => rfl
  | setaddr addr => rfl
  | settype kind => rfl
  | setdata temp humidity voltage => rfl
  | send => rfl
  | sendbit v => cases h
  | sendbyte b => cases h
  | eofmark => cases h

theorem assertReset_bench (c : Config) (s : State) : (assertReset c s).bench = s.bench := by
  unfold assertReset
  split <;> rfl

theorem holdReset_bench (c : Config) (s : State) : (holdReset c s).bench = s.bench := by
  unfold holdReset
  split <;> rfl

theorem runWord_bench {cw : CommandWord} {s t : State} (h : runWord cw s = .next t) : t.bench = s.bench := by
  rcases runWord_cases cw s with ⟨i, -, -, hrun⟩ | ⟨-, hrun⟩ <;> rw [hrun] at h
  · exact exec_bench h
  · cases h
    rfl

/-- No step puts a label on the bench (log 8). -/
theorem step_bench_of_nil {s t : State} (hbench : s.bench = []) (h : step s = .next t) : t.bench = [] := by
  rcases step_cases s with ⟨-, heq⟩ | ⟨-, -, heq⟩ | ⟨-, -, heq⟩ | ⟨-, -, -, -, -, heq⟩ | ⟨-, -, -, p, rest, -, -, heq⟩ |
      ⟨-, -, b, rest, hsome, -, -⟩
  · rw [heq] at h; cases h; exact (holdReset_bench _ s).trans hbench
  · rw [heq] at h; cases h; exact (assertReset_bench _ s).trans hbench
  · rw [heq] at h; cases h
    obtain ⟨-, -, -, -, -, hsame, -⟩ := sequencerStep_surroundings Config.hardware s
    exact hsame.trans hbench
  · rw [heq] at h; cases h; exact hbench
  · exact (runWord_bench (heq.symm.trans h)).trans hbench
  · simp [hbench] at hsome

/-- Settles O60: the two decoders and the operations they name, the bench along a step, and the step that enters a label. -/
theorem onlyABenchRunsAMicroOperationAlone : Obligations.OnlyABenchRunsAMicroOperationAlone := by
  refine ⟨fun cw i hdecode => ?_, fun s t => step_bench_of_nil, fun s b rest i hrst hbusy hbench hdue hdecode => ?_⟩
  · have hhost := decodeCommand_issuedBy hdecode
    exact ⟨hhost, not_issuedBy_sequencer hhost⟩
  · refine ⟨decodeMicro_issuedBy hdecode, ?_⟩
    calc step s
        = runLabel b.label (s.enterBenched b rest) := step_of_benched hrst hbusy hbench hdue
      _ = exec i (s.enterBenched b rest) := runLabel_of_decodes hdecode _

end Sys2Proof.Machine
end

section
/-! The operand words as rational numbers: the four forms of a binary32 word (R84). -/

namespace Sys2Proof.Machine

theorem f32_of_normal {w : Single} (hmax : exponentField w ≠ 255) (hmin : exponentField w ≠ 0) :
    f32 w = .finite (applySign (signBit w) ((2 ^ 23 + fractionField w) * 2 ^ (exponentField w - 1))) := by
  simp [f32, hmax, hmin]

theorem f32_of_subnormal {w : Single} (h : exponentField w = 0) :
    f32 w = .finite (applySign (signBit w) (fractionField w)) := by
  simp [f32, h]

theorem f32_of_infinity {w : Single} (hexp : exponentField w = 255) (hfrac : fractionField w = 0) :
    f32 w = .infinite (signBit w) := by
  simp [f32, hexp, hfrac]

theorem f32_of_nan {w : Single} (hexp : exponentField w = 255) (hfrac : fractionField w ≠ 0) : f32 w = .nan := by
  simp [f32, hexp, hfrac]

/-- A signed number of units as a rational: the sign, and the magnitude over 2^149. -/
theorem unitsValue_applySign (negative : Bool) (n : Nat) :
    unitsValue (applySign negative n) = (-1) ^ negative.toNat * ((n : ℚ) / 2 ^ 149) := by
  cases negative with
  | false => simp [unitsValue, applySign]
  | true => simp [unitsValue, applySign, neg_div]

/-- The magnitude of a normal word in units, over 2^149 (R84). -/
theorem normal_magnitude_eq {e : Nat} (he : 1 ≤ e) (m : Nat) :
    (((2 ^ 23 + m) * 2 ^ (e - 1) : Nat) : ℚ) / 2 ^ 149 = (2 : ℚ) ^ ((e : Int) - 127) * (1 + (m : ℚ) / 2 ^ 23) := by
  obtain ⟨k, rfl⟩ := Nat.exists_eq_add_of_le' he
  have hexp : (2 : ℚ) ^ (((k + 1 : Nat) : Int) - 127) = 2 ^ k / 2 ^ 126 := by
    have hsub : ((k + 1 : Nat) : Int) - 127 = (k : Int) - (126 : Nat) := by omega
    rw [hsub, zpow_sub₀ two_ne_zero, zpow_natCast, zpow_natCast]
  rw [hexp, Nat.add_sub_cancel]
  push_cast
  ring

/-- The magnitude of a subnormal word in units, over 2^149 (R84). -/
theorem subnormal_magnitude_eq (m : Nat) : (m : ℚ) / 2 ^ 149 = (2 : ℚ) ^ (-126 : Int) * ((m : ℚ) / 2 ^ 23) := by
  have hexp : (2 : ℚ) ^ (-126 : Int) = 1 / 2 ^ 126 := by norm_num
  rw [hexp]
  ring

/-- Settles O26: each form of a word by its equation for `f32`, and the two finite ones by their magnitudes. -/
theorem operandWordsDenoteBinary32Values : Obligations.OperandWordsDenoteBinary32Values := by
  intro w s e m
  refine ⟨fun ⟨(hmin : 1 ≤ exponentField w), (hmax : exponentField w ≤ 254)⟩ => ?_, fun hexp => ?_,
    fun ⟨hexp, hfrac⟩ => f32_of_infinity hexp hfrac, fun ⟨hexp, hfrac⟩ => f32_of_nan hexp hfrac⟩
  · refine ⟨_, f32_of_normal (by omega) (by omega), ?_⟩
    rw [unitsValue_applySign, normal_magnitude_eq hmin, mul_assoc]
    rfl
  · refine ⟨_, f32_of_subnormal hexp, ?_⟩
    rw [unitsValue_applySign, subnormal_magnitude_eq, mul_assoc]
    rfl

end Sys2Proof.Machine
end

section
/-! What SETDATA stores: the pattern of each conversion and the values it draws, byte by byte (R85, R126, R127, R130). -/

namespace Sys2Proof.Machine

/-- The stored pattern and the values drawn, as the claims name them (R126, R127). -/
theorem storedPattern_eq (r : Conversion) (n : Nat) : storedPattern r n = (patternOf r n, drawsUsed r) := by
  cases r with
  | integer i => rfl
  | nonfinite => rfl

/-- The three writes of SETDATA: each field its pattern, its free value drawn after those of the fields before it (R127, R130). -/
theorem setDataWrap_eq (r1 r2 r3 : Conversion) (s : State) :
    setDataWrap r1 r2 r3 s =
      (s.setValues (patternOf r1 s.draws) (patternOf r2 (s.draws + drawsUsed r1))
        (patternOf r3 (s.draws + drawsUsed r1 + drawsUsed r2))).addDraws (drawsUsed r1 + drawsUsed r2 + drawsUsed r3) := by
  simp only [setDataWrap, storedPattern_eq]

/-- The Frame as memory after a write of the value bytes: each field low byte first, DATATYPE and ADDRESS as before (R23, R85). -/
theorem State.setValues_memory (s : State) (p1 p2 p3 : Half) :
    (s.setValues p1 p2 p3).memory =
      [(0, s.frame.f0), (1, s.frame.f1), (2, p1.extractLsb' 0 8), (3, p1.extractLsb' 8 8), (4, p2.extractLsb' 0 8),
        (5, p2.extractLsb' 8 8), (6, p3.extractLsb' 0 8), (7, p3.extractLsb' 8 8)] := by
  simp only [State.memory, State.setValues_eq, Frame.withValues_eq]

/-- What the six addresses of the value fields read after a write of the value bytes (R53, R85). -/
theorem State.readByte_setValues (s : State) (p1 p2 p3 : Half) :
    (s.setValues p1 p2 p3).readByte 2 = some (p1.extractLsb' 0 8) ∧
      (s.setValues p1 p2 p3).readByte 3 = some (p1.extractLsb' 8 8) ∧
      (s.setValues p1 p2 p3).readByte 4 = some (p2.extractLsb' 0 8) ∧
      (s.setValues p1 p2 p3).readByte 5 = some (p2.extractLsb' 8 8) ∧
      (s.setValues p1 p2 p3).readByte 6 = some (p3.extractLsb' 0 8) ∧
      (s.setValues p1 p2 p3).readByte 7 = some (p3.extractLsb' 8 8) := by
  simp only [State.readByte, State.setValues_memory]
  exact ⟨rfl, rfl, rfl, rfl, rfl, rfl⟩

/-- Every other address reads as before: DATATYPE, ADDRESS, and the addresses that do not exist (R23, R50). -/
theorem State.readByte_setValues_of_other (s : State) (p1 p2 p3 : Half) {addr : Nat} (h : addr < 2 ∨ 8 ≤ addr) :
    (s.setValues p1 p2 p3).readByte addr = s.readByte addr := by
  rcases h with hlow | hhigh
  · simp only [State.readByte, State.setValues_memory]
    interval_cases addr <;> rfl
  · rw [State.readByte_of_ge _ _ hhigh, State.readByte_of_ge _ _ hhigh]

/-- A draw is no write: every address reads as before (R127). -/
theorem State.readByte_addDraws (s : State) (n addr : Nat) : (s.addDraws n).readByte addr = s.readByte addr :=
  State.readByte_congr (State.addDraws_frame n s) addr

/-- Settles O23: the command is accepted, and its effect is the write of the three patterns, read byte by byte and field by field. -/
theorem setdataStoresTheThreeConversions : Obligations.SetdataStoresTheThreeConversions := by
  intro temp humidity voltage s hbusy hrst
  have heffect : exec (.setdata temp humidity voltage) s = .next (setDataWrap (fx .binary32Stepwise temp 50)
      (fx .binary32Stepwise humidity 0) (fx .binary32Stepwise voltage 0) s) := exec_command rfl hbusy hrst
  rw [heffect]
  generalize fx .binary32Stepwise temp 50 = r1, fx .binary32Stepwise humidity 0 = r2, fx .binary32Stepwise voltage 0 = r3
  refine ⟨_, congrArg Host.Outcome.next (setDataWrap_eq r1 r2 r3 s), ?_⟩
  simp only [State.readByte_addDraws, State.addDraws_frame]
  generalize patternOf r1 _ = p1, patternOf r2 _ = p2, patternOf r3 _ = p3
  obtain ⟨h2, h3, h4, h5, h6, h7⟩ := State.readByte_setValues s p1 p2 p3
  exact ⟨h2, h3, h4, h5, h6, h7, Frame.val1_setHalf s.frame p1 p2 p3, Frame.val2_setHalf s.frame p1 p2 p3,
    Frame.val3_setHalf s.frame p1 p2 p3, fun _ => State.readByte_setValues_of_other s p1 p2 p3,
    by simp only [State.addDraws, State.setValues_eq, Nat.add_assoc]⟩

end Sys2Proof.Machine
end

section
/-! SENDBITs in a row without latencies: each rises at the deadline the one before left, so that a row of bits is its slots of `TOTAL`
one after another (R75, R145, R172). -/

namespace Sys2Proof.Machine

/-- Without latencies there is no gap between two micro-operations (R144). -/
theorem microGap_of_no_latency {c : Config} (hlat : c.lat = Latency.zero) (s : State) : microGap c s = s := by
  simp [microGap, State.delay, hlat, Latency.zero]

theorem sendBits_cons_cons (c : Config) (v v' : Bool) (vs : List Bool) (s : State) :
    sendBits c (v :: v' :: vs) s = sendBits c (v' :: vs) (microGap c (sendBit c v s)) := rfl

/-- A pulse is over before the next deadline (R11, R145). -/
theorem pulseWidth_le_total {c : Config} (hshort : c.short ≤ c.total) (v : Bool) : pulseWidth c v ≤ c.total := by
  cases v with
  | false => exact Nat.sub_le c.total c.short
  | true => exact hshort

/-- A SENDBIT entered at the exit of another one rises at the deadline that one left, while the clock does not wrap (R147, R150). -/
theorem firstRise_sendBit {c : Config} (hlat : c.lat = Latency.zero) (hshort : c.short ≤ c.total) (v : Bool) {s : State}
    (hclock : clockHolds (firstRise s) c.total) : firstRise (sendBit c v s) = firstRise s + us c.total := by
  have hwidth := pulseWidth_le_total hshort v
  have hfits : (firstRise s).toNat + c.total < 2 ^ 64 := hclock
  rw [sendBit_eq c hlat]
  refine laterOf_of_le (BitVec.le_def.2 ?_)
  rw [add_us_toNat hfits, add_us_toNat (by omega)]
  omega

theorem sendBit_line (c : Config) (v : Bool) (s : State) : (sendBit c v s).line = false := closePulse_line c c.lat v _

/-- SENDBIT from the line LOW: the two edges of its pulse (R145). -/
theorem sendBit_of_line_low {c : Config} (hlat : c.lat = Latency.zero) (v : Bool) {s : State} (hline : s.line = false) :
    sendBit c v s =
      { s with
        now := firstRise s + us (pulseWidth c v)
        nextEdge := firstRise s + us c.total
        log := (pulseEvents (firstRise s) (pulseWidth c v)).reverse ++ s.log } := by
  rw [sendBit_eq c hlat, hline, logChange_rise]
  cases s
  cases hline
  rfl

/-- A row of bits from the line LOW: their slots from the first rising edge on, the exit at the last falling edge, and the deadline where
the next slot would be (R75, R76, R172). -/
theorem sendBits_eq {c : Config} (hlat : c.lat = Latency.zero) (hshort : c.short ≤ c.total) (vs : List Bool) (v : Bool) {s : State}
    (hline : s.line = false) (hclock : clockHolds (firstRise s) ((v :: vs).length * c.total)) :
    sendBits c (v :: vs) s =
      { s with
        now := firstRise s + us (vs.length * c.total + pulseWidth c ((v :: vs).getLast (List.cons_ne_nil v vs)))
        nextEdge := firstRise s + us ((v :: vs).length * c.total)
        log := (bitEvents c (firstRise s) (v :: vs)).reverse ++ s.log } := by
  induction vs generalizing v s with
  | nil => simpa [sendBits, bitEvents] using sendBit_of_line_low hlat v hline
  | cons v' vs ih =>
    have hfits : (firstRise s).toNat + (vs.length + 2) * c.total < 2 ^ 64 := hclock
    have hslot : c.total ≤ (vs.length + 2) * c.total := Nat.le_mul_of_pos_left c.total (Nat.succ_pos _)
    have hone : (firstRise s).toNat + c.total < 2 ^ 64 := by omega
    have hrise : firstRise (sendBit c v s) = firstRise s + us c.total := firstRise_sendBit hlat hshort v hone
    have hlater : clockHolds (firstRise (sendBit c v s)) ((v' :: vs).length * c.total) := by
      rw [clockHolds, hrise, add_us_toNat hone, List.length_cons]
      linarith
    have hnow (n : Nat) : firstRise s + us c.total + us n = firstRise s + us (n + c.total) := by
      rw [us_add, BitVec.add_assoc, BitVec.add_comm (us n)]
    have htail := ih v' (sendBit_line c v s) hlater
    rw [sendBits_cons_cons, microGap_of_no_latency hlat, htail, hrise, sendBit_of_line_low hlat v hline, hnow, hnow]
    simp [bitEvents, Nat.succ_mul, Nat.add_right_comm]

/-- A SENDBYTE from the line LOW: nine slots, the last the stop bit's (R76, R172). -/
theorem sendByte_eq {c : Config} (hlat : c.lat = Latency.zero) (hshort : c.short ≤ c.total) (b : Byte) {s : State}
    (hline : s.line = false) (hclock : clockHolds (firstRise s) (9 * c.total)) :
    sendByte c b s =
      { s with
        now := firstRise s + us (8 * c.total + c.short)
        nextEdge := firstRise s + us (9 * c.total)
        log := (bitEvents c (firstRise s) (wireBits b)).reverse ++ s.log } :=
  sendBits_eq hlat hshort _ _ hline hclock

/-- Settles O44: SENDBYTE is accepted, and its effect is the nine slots of its byte. -/
theorem sendbyteWaveform : Obligations.SendbyteWaveform := by
  intro b s hrst hline hclock
  have hexec : exec (.sendbyte b) s = .next (sendByte Config.hardware b s) := exec_micro rfl hrst
  rw [hexec, sendByte_eq Config.hardware_lat (by simp) b hline hclock, Config.hardware_total, Config.hardware_short]

end Sys2Proof.Machine
end

section
/-! A row of micro-operations as its SENDBITs: what SENDBYTE and the micro-program of SEND amount to bit by bit, with any latencies
(R94, R144, R172). -/

namespace Sys2Proof.Machine

/-- One SENDBIT and the gap after it (R144, R152). -/
def gappedBit (c : Config) (s : State) (v : Bool) : State := microGap c (sendBit c v s)

/-- SENDBITs in a row, each with the gap after it, the last one too. -/
def gappedBits (c : Config) (vs : List Bool) (s : State) : State := vs.foldl (gappedBit c) s

theorem gappedBits_cons (c : Config) (v : Bool) (vs : List Bool) (s : State) :
    gappedBits c (v :: vs) s = gappedBits c vs (gappedBit c s v) := List.foldl_cons ..

theorem gappedBits_append (c : Config) (vs ws : List Bool) (s : State) :
    gappedBits c (vs ++ ws) s = gappedBits c ws (gappedBits c vs s) := List.foldl_append

/-- A row of SENDBITs and the gap after it. -/
theorem microGap_sendBits (c : Config) (v : Bool) (vs : List Bool) (s : State) :
    microGap c (sendBits c (v :: vs) s) = gappedBits c (v :: vs) s := by
  induction vs generalizing v s with
  | nil => rfl
  | cons v' vs ih => rw [sendBits_cons_cons, ih, gappedBits_cons c v, gappedBit]

/-- The bits a micro-operation of the micro-program sends before the marker: those of a SENDBIT or a SENDBYTE (R94). -/
def microBits : Instr → List Bool
  | .sendbit v => [v]
  | .sendbyte b => wireBits b
  | .init => []
  | .setaddr _ => []
  | .settype _ => []
  | .setdata _ _ _ => []
  | .send => []
  | .eofmark => []

/-- A micro-operation that is SENDBITs in a row. -/
def IsBitRow (i : Instr) : Prop := (∃ v, i = .sendbit v) ∨ ∃ b, i = .sendbyte b

/-- Such a micro-operation and the gap after it. -/
theorem microGap_runMicro {i : Instr} (h : IsBitRow i) (c : Config) (s : State) :
    microGap c (runMicro c i s) = gappedBits c (microBits i) s := by
  rcases h with ⟨v, rfl⟩ | ⟨b, rfl⟩
  · rfl
  · exact microGap_sendBits c _ _ s

/-- Such micro-operations in a row, and a last one after them, entered after the gap. -/
theorem runMicros_append_last (c : Config) (is : List Instr) (last : Instr) (h : ∀ i ∈ is, IsBitRow i) (s : State) :
    runMicros c (is ++ [last]) s = runMicro c last (gappedBits c (is.flatMap microBits) s) := by
  induction is generalizing s with
  | nil => rfl
  | cons i is ih =>
    have hhead : runMicros c (i :: (is ++ [last])) s = runMicros c (is ++ [last]) (microGap c (runMicro c i s)) := by
      cases is <;> rfl
    rw [List.cons_append, hhead, microGap_runMicro (h i List.mem_cons_self), List.flatMap_cons, gappedBits_append]
    exact ih (fun j hj => h j (List.mem_cons_of_mem i hj)) _

/-- The micro-operations of SEND before the marker (R94). -/
def bitProgram (c : Config) (f : Frame) : List Instr :=
  [Instr.sendbit true] ++ List.replicate c.nsync (Instr.sendbit false) ++ [Instr.sendbit true] ++ f.bytes.map Instr.sendbyte ++
    [Instr.sendbyte (frameChecksum f)]

theorem microProgram_eq (c : Config) (f : Frame) : microProgram c f = bitProgram c f ++ [.eofmark] := by
  simp [microProgram, bitProgram]

theorem bitProgram_isBitRow (c : Config) (f : Frame) : ∀ i ∈ bitProgram c f, IsBitRow i := by
  intro i hi
  simp only [bitProgram, List.mem_append, List.mem_singleton, List.mem_replicate, List.mem_map] at hi
  rcases hi with (((rfl | ⟨-, rfl⟩) | rfl) | ⟨b, -, rfl⟩) | rfl
  · exact .inl ⟨true, rfl⟩
  · exact .inl ⟨false, rfl⟩
  · exact .inl ⟨true, rfl⟩
  · exact .inr ⟨b, rfl⟩
  · exact .inr ⟨frameChecksum f, rfl⟩

/-- They send the bits of the frame's ordinary slots (R77, R94). -/
theorem bitProgram_bits (c : Config) (f : Frame) : (bitProgram c f).flatMap microBits = frameBits c f := by
  simp [bitProgram, frameBits, microBits, List.flatMap_map, List.flatMap_replicate]

/-- The micro-program of SEND: the bits of the ordinary slots, each with its gap, then the marker (R94, R177). -/
theorem runMicros_microProgram (c : Config) (f : Frame) (s : State) :
    runMicros c (microProgram c f) s = eofMark c (gappedBits c (frameBits c f) s) := by
  rw [microProgram_eq, runMicros_append_last c _ _ (bitProgram_isBitRow c f), bitProgram_bits]
  rfl

end Sys2Proof.Machine
end

section
/-! The bit of each slot: that the sequencer's slots carry the bits of the frame in order (R27, R77). -/

namespace Sys2Proof.Machine

theorem wireBits_length (b : Byte) : (wireBits b).length = 9 := rfl

/-- The bits of bytes in a row, nine to a byte. -/
theorem flatMap_wireBits_getElem? (bs : List Byte) (q : Nat) {r : Nat} (hr : r < 9) :
    (bs.flatMap wireBits)[9 * q + r]? = bs[q]?.bind fun b => (wireBits b)[r]? := by
  induction bs generalizing q with
  | nil => simp
  | cons b bs ih =>
    rw [List.flatMap_cons]
    cases q with
    | zero =>
      rw [Nat.mul_zero, Nat.zero_add, List.getElem?_append_left hr]
      rfl
    | succ q =>
      have hpos : 9 * (q + 1) + r - 9 = 9 * q + r := by omega
      rw [List.getElem?_append_right (by rw [wireBits_length]; omega), wireBits_length, hpos, ih]
      simp

theorem wireBits_getElem? (b : Byte) {r : Nat} (hr : r < 9) : (wireBits b)[r]? = some ((wireBits b).getD r true) := by
  have hget : (wireBits b)[r]? = some (wireBits b)[r] := List.getElem?_eq_getElem hr
  rw [List.getD_eq_getElem?_getD, hget, Option.getD_some]

theorem Frame.bytes_getElem? (f : Frame) (i : Fin 8) : f.bytes[(i : Nat)]? = some (f.get i) := by
  fin_cases i <;> rfl

theorem Frame.bytes_length (f : Frame) : f.bytes.length = 8 := rfl

theorem flatMap_wireBits_length (bs : List Byte) : (bs.flatMap wireBits).length = 9 * bs.length := by
  induction bs with
  | nil => rfl
  | cons b bs ih => rw [List.flatMap_cons, List.length_append, ih, wireBits_length, List.length_cons]; omega

/-! ### The parts of a frame -/

/-- The synchronisation and start bits, then the Frame, then the checksum (R77). -/
theorem frameBits_eq (c : Config) (f : Frame) :
    frameBits c f =
      (true :: List.replicate c.nsync false ++ [true]) ++ (f.bytes.flatMap wireBits ++ wireBits (frameChecksum f)) := by
  simp [frameBits]

theorem frameBits_length {c : Config} (hlen : c.length = 8) (f : Frame) : (frameBits c f).length + 1 = c.nSlots := by
  simp only [frameBits_eq, List.length_append, List.length_cons, List.length_nil, List.length_replicate,
    flatMap_wireBits_length, Frame.bytes_length, wireBits_length, Config.nSlots, hlen]
  omega

theorem frameBits_lead (c : Config) (f : Frame) : (frameBits c f)[0]? = some true := rfl

theorem frameBits_zero {c : Config} (f : Frame) {k : Nat} (hpos : 0 < k) (hk : k ≤ c.nsync) :
    (frameBits c f)[k]? = some false := by
  obtain ⟨j, rfl⟩ := Nat.exists_eq_add_of_le' hpos
  rw [frameBits_eq, List.getElem?_append_left (by simp; omega), List.cons_append, List.getElem?_cons_succ,
    List.getElem?_append_left (by simp; omega), List.getElem?_replicate, if_pos (by omega)]

theorem frameBits_start (c : Config) (f : Frame) : (frameBits c f)[c.nsync + 1]? = some true := by
  rw [frameBits_eq, List.getElem?_append_left (by simp), List.cons_append, List.getElem?_cons_succ,
    List.getElem?_append_right (by simp)]
  simp

/-- From slot `D0` on come the Frame and the checksum (R27). -/
theorem frameBits_from_firstData (c : Config) (f : Frame) (j : Nat) :
    (frameBits c f)[firstData c + j]? = (f.bytes.flatMap wireBits ++ wireBits (frameChecksum f))[j]? := by
  have hlength : (true :: List.replicate c.nsync false ++ [true]).length = firstData c := by simp [firstData]
  rw [frameBits_eq, List.getElem?_append_right (by omega), hlength, Nat.add_sub_cancel_left]

theorem frameBits_data (c : Config) (f : Frame) (idx : Fin 8) {r : Nat} (hr : r < 9) :
    (frameBits c f)[firstData c + (9 * idx + r)]? = some ((wireBits (f.get idx)).getD r true) := by
  have hidx := idx.isLt
  have hlength : (f.bytes.flatMap wireBits).length = 72 := flatMap_wireBits_length f.bytes
  rw [frameBits_from_firstData, List.getElem?_append_left (by omega), flatMap_wireBits_getElem? _ _ hr,
    Frame.bytes_getElem?, Option.bind_some, wireBits_getElem? _ hr]

theorem frameBits_checksum {c : Config} (hlen : c.length = 8) (f : Frame) {r : Nat} (hr : r < 9) :
    (frameBits c f)[firstChecksum c + r]? = some ((wireBits (frameChecksum f)).getD r true) := by
  have hlength : (f.bytes.flatMap wireBits).length = 72 := flatMap_wireBits_length f.bytes
  rw [firstChecksum_eq hlen, Nat.add_assoc, frameBits_from_firstData, List.getElem?_append_right (by omega), hlength,
    Nat.add_sub_cancel_left, wireBits_getElem? _ hr]

/-! ### The slots -/

/-- The slot table, read backwards: which slots carry what (R27, R77). -/
theorem slotKind_cases {c : Config} (hlen : c.length = 8) (k : Nat) :
    (k = 0 ∧ slotKind c k = .syncLead) ∨
      (0 < k ∧ k ≤ c.nsync ∧ slotKind c k = .syncZero) ∨
      (k = c.nsync + 1 ∧ slotKind c k = .start) ∨
      (∃ (idx : Fin 8) (bitPos : Fin 9), k = firstData c + (9 * idx + bitPos) ∧ slotKind c k = .data idx bitPos) ∨
      (∃ bitPos : Fin 9, k = firstChecksum c + bitPos ∧ slotKind c k = .checksum bitPos) ∨
      (firstChecksum c + 9 ≤ k ∧ slotKind c k = .marker) := by
  have hend := firstChecksum_eq hlen
  have hstart : firstData c = c.nsync + 2 := rfl
  unfold slotKind
  split_ifs with hlead hzero hone hdata hchecksum
  · exact .inl ⟨hlead, rfl⟩
  · exact .inr (.inl ⟨Nat.pos_of_ne_zero hlead, hzero, rfl⟩)
  · exact .inr (.inr (.inl ⟨hone, rfl⟩))
  · refine .inr (.inr (.inr (.inl ⟨_, _, ?_, rfl⟩)))
    simp only [Fin.val_ofNat]
    omega
  · refine .inr (.inr (.inr (.inr (.inl ⟨_, ?_, rfl⟩))))
    simp only [Fin.val_ofNat]
    omega
  · exact .inr (.inr (.inr (.inr (.inr ⟨Nat.le_of_not_lt hchecksum, rfl⟩))))

/-- From slot `C0` on the whole Frame is in `SUM` (R162). -/
theorem bytesSummed_of_ge {c : Config} {k : Nat} (hk : firstChecksum c ≤ k) (t : SubStep) : bytesSummed c k t = 8 := by
  have hstart : firstData c ≤ firstChecksum c := Nat.le_add_right _ _
  simp only [bytesSummed]
  split_ifs <;> omega

theorem State.SumAt.full {c : Config} {s : State} {k : Nat} {t : SubStep} (h : s.SumAt c k t) (hk : firstChecksum c ≤ k) :
    s.sum.toNat = byteSum s.frame.bytes := by
  rw [h, bytesSummed_of_ge hk]
  rfl

theorem nSlots_eq {c : Config} (hlen : c.length = 8) : c.nSlots = firstChecksum c + 10 := by
  simp only [firstChecksum, firstData, Config.nSlots, hlen]
  omega

/-- At the entry of a slot before the last its bit is the frame's bit of that number: in the checksum slots because `SUM` then holds
the whole Frame (R77, R163). -/
theorem frameBits_slot {c : Config} (hlen : c.length = 8) {s : State} (hsum : s.SumAt c s.slot.toNat .wait)
    (hslot : s.slot.toNat + 1 < c.nSlots) : (frameBits c s.frame)[s.slot.toNat]? = some (slotBit c s) := by
  rcases slotKind_cases hlen s.slot.toNat with ⟨hk, hkind⟩ | ⟨hpos, hk, hkind⟩ | ⟨hk, hkind⟩ | ⟨idx, bitPos, hk, hkind⟩ |
      ⟨bitPos, hk, hkind⟩ | ⟨hk, -⟩
  · rw [hk] at hkind
    simp only [slotBit, hk, hkind, frameBits_lead]
  · simp only [slotBit, hkind, frameBits_zero s.frame hpos hk]
  · rw [hk] at hkind
    simp only [slotBit, hk, hkind, frameBits_start]
  · rw [hk] at hkind
    simp only [slotBit, hk, hkind, frameBits_data c s.frame idx bitPos.isLt]
  · have hform : formChecksum s.sum = frameChecksum s.frame := formChecksum_of_sum s.frame s.sum (hsum.full (by omega))
    rw [hk] at hkind
    simp only [slotBit, hk, hkind, frameBits_checksum hlen s.frame bitPos.isLt, hform]
  · have hslots := nSlots_eq hlen
    omega

end Sys2Proof.Machine
end

section
/-! SEND as its micro-program: slot by slot the sequencer sends the frame's bits, keeps `SUM`, and ends with the marker (R28, R162,
R177), in every configuration. -/

namespace Sys2Proof.Machine

/-! ### Where the position and the sum do not matter -/

/-- SENDBIT with any latencies, all fields at once (R152). -/
theorem sendBit_fields (c : Config) (v : Bool) (s : State) :
    sendBit c v s =
      { s with
        now := firstRise s + us c.lat.dw + us c.lat.ds + us (pulseWidth c v) + us c.lat.dd
        line := false
        nextEdge := firstRise s + us c.lat.dw + us c.lat.ds + us c.total
        log :=
          logChange .line true false (firstRise s + us c.lat.dw + us c.lat.ds + us (pulseWidth c v) + us c.lat.dd)
            (logChange .line s.line true (firstRise s + us c.lat.dw) s.log) } := by
  simp only [sendBit, sendBitWith, closePulse_eq, openPulse_eq, firstRise]

/-- The sum and the position set: what an ordinary slot does beside its SENDBIT. -/
def State.moved (s : State) (x : BitVec 11) (k : BitVec 7) (t : SubStep) : State := (s.setSum x).setPosition k t

theorem gappedBit_moved (c : Config) (v : Bool) (x : BitVec 11) (k : BitVec 7) (t : SubStep) (s : State) :
    gappedBit c (s.moved x k t) v = (gappedBit c s v).moved x k t := by
  simp only [gappedBit, microGap, State.delay, State.moved, State.setSum, State.setPosition, sendBit_fields, firstRise]

/-- A SENDBIT looks at neither the sum nor the position. -/
theorem gappedBits_moved (c : Config) (vs : List Bool) (x : BitVec 11) (k : BitVec 7) (t : SubStep) (s : State) :
    gappedBits c vs (s.moved x k t) = (gappedBits c vs s).moved x k t := by
  induction vs generalizing s with
  | nil => rfl
  | cons v vs ih => rw [gappedBits_cons, gappedBits_cons, gappedBit_moved, ih]

/-- Nor does the marker. -/
theorem eofMark_moved (c : Config) (x : BitVec 11) (k : BitVec 7) (t : SubStep) (s : State) :
    eofMark c (s.moved x k t) = (eofMark c s).moved x k t := by
  simp only [eofMark, closeMarker, holdMarker, openMarker, openPulse_eq, sendBit_fields, firstRise, State.delay, State.setLine,
    State.moved, State.setSum, State.setPosition]

/-- The exit of a SEND with the sum set writes the sum and the position itself. -/
theorem finishSend_setSum_moved (x y : BitVec 11) (k : BitVec 7) (t : SubStep) (s : State) :
    finishSend ((s.moved x k t).setSum y) = finishSend (s.setSum y) := rfl

/-! ### A slot -/

theorem SameSurroundings.resets_eq {s t : State} (h : SameSurroundings s t) : t.resets = s.resets :=
  have ⟨_, _, _, hresets, _⟩ := h
  hresets

/-- A SEND about to enter a slot with no reset to come: its part of `SUM` is complete (R26, R28, R162). -/
structure State.AtSlot (c : Config) (s : State) : Prop where
  running : s.busy = true
  no_reset : s.resets = []
  at_wait : s.subStep = .wait
  in_range : s.slot.toNat < c.nSlots
  partial_sum : s.SumAt c s.slot.toNat .wait

/-- The state after an ordinary slot. -/
def afterSlot (c : Config) (s : State) : State :=
  microGap c ((sendBit c (slotBit c s) (enterSlot c s)).setPosition (s.slot + 1) .wait)

/-- A slot is a SENDBIT of its bit and the gap after it, but for the position and the sum. -/
theorem afterSlot_eq (c : Config) (s : State) :
    ∃ x, afterSlot c s = (gappedBit c s (slotBit c s)).moved x (s.slot + 1) .wait := by
  obtain ⟨x, henter⟩ := enterSlot_eq_setSum c s
  refine ⟨x, ?_⟩
  simp only [afterSlot, henter, gappedBit, microGap, State.delay, State.moved, State.setSum, State.setPosition, sendBit_fields,
    firstRise]

theorem slot_add_one_toNat {c : Config} (hslots : c.nSlots ≤ 128) {k : BitVec 7} (h : k.toNat + 1 < c.nSlots) :
    (k + 1).toNat = k.toNat + 1 :=
  BitVec.toNat_add_of_lt (by simpa using h.trans_le hslots)

theorem afterSlot_surroundings (c : Config) (s : State) : SameSurroundings s (afterSlot c s) :=
  (((enterSlot_surroundings c s).trans (sendBit_surroundings c _ _)).trans (setPosition_surroundings _ _ _)).trans
    (delay_surroundings _ _)

theorem afterSlot_busy (c : Config) (s : State) : (afterSlot c s).busy = s.busy := by
  obtain ⟨x, henter⟩ := enterSlot_eq_setSum c s
  rw [afterSlot, henter]
  exact (sendBit_position c (slotBit c s) (s.setSum x)).busy_eq

theorem afterSlot_sum (c : Config) (s : State) : (afterSlot c s).sum = (enterSlot c s).sum :=
  (sendBit_position c (slotBit c s) (enterSlot c s)).sum_eq

/-- After an ordinary slot the SEND is about to enter the next one. -/
theorem State.AtSlot.afterSlot {c : Config} (hlen : c.length = 8) (hslots : c.nSlots ≤ 128) {s : State} (h : s.AtSlot c)
    (hslot : s.slot.toNat + 1 < c.nSlots) : (afterSlot c s).AtSlot c := by
  obtain ⟨hframe, -, -, hresets, -⟩ := afterSlot_surroundings c s
  have hentered : (enterSlot c s).SumAt c s.slot.toNat .pulse := enterSlot_sumAt hlen h.partial_sum (by decide)
  have hslot' : (Machine.afterSlot c s).slot.toNat = s.slot.toNat + 1 := slot_add_one_toNat hslots hslot
  have hsum : (Machine.afterSlot c s).SumAt c (Machine.afterSlot c s).slot.toNat .wait := by
    rw [State.SumAt, hslot', bytesSummed_next hlen _ (t := .pulse) (by decide), afterSlot_sum, hframe,
      ← (enterSlot_surroundings c s).frame_eq]
    exact hentered
  exact ⟨(afterSlot_busy c s).trans h.running, hresets.trans h.no_reset, rfl, hslot'.trans_lt hslot, hsum⟩

/-- With no reset to come, the sequencer takes the two sub-steps of an ordinary slot at once. -/
theorem runSequencer_slot {c : Config} (hc : c.wellFormed = true) {s : State} (h : s.AtSlot c)
    (hslot : s.slot.toNat + 1 < c.nSlots) (n : Nat) :
    runSequencer c (n + 2) s = runSequencer c n (afterSlot c s) := by
  have hbusy : (sequencerStep c s).busy = true := (sequencerStep_wait_position c h.at_wait).1.trans h.running
  have hresets := (sequencerStep_surroundings c s).resets_eq
  rw [runSequencer_succ c _ s h.running (resetDue_of_nil h.no_reset _),
    runSequencer_succ c _ _ hbusy (resetDue_of_nil (hresets.trans h.no_reset) _), ordinary_slot_eq hc h.at_wait hslot]
  rfl

/-- And the three of the last slot, after which the SEND has exited. -/
theorem runSequencer_last_slot {c : Config} (hc : c.wellFormed = true) {s : State} (h : s.AtSlot c)
    (hslot : s.slot.toNat + 1 = c.nSlots) : runSequencer c 3 s = finishSend (eofMark c s) := by
  have hrise : afterRise c s = .eofHold := by rw [afterRise_eq hc, if_pos hslot.ge]
  obtain ⟨hbusy, -, hsub⟩ := sequencerStep_wait_position c h.at_wait
  obtain ⟨hbusy', -, -⟩ := sequencerStep_eofHold_position c (hsub.trans hrise)
  have hrunning := hbusy.trans h.running
  have hresets : (sequencerStep c s).resets = [] := (sequencerStep_surroundings c s).resets_eq.trans h.no_reset
  have hresets' := (sequencerStep_surroundings c (sequencerStep c s)).resets_eq.trans hresets
  rw [runSequencer_succ c _ s h.running (resetDue_of_nil h.no_reset _),
    runSequencer_succ c _ _ hrunning (resetDue_of_nil hresets _),
    runSequencer_succ c _ _ (hbusy'.trans hrunning) (resetDue_of_nil hresets' _), marker_slot_eq hc h.at_wait hslot]
  rfl

/-! ### The whole SEND -/

/-- The sum a SEND ends with, as 11 bits (R162). -/
theorem State.SumAt.sum_eq {c : Config} {s : State} {k : Nat} {t : SubStep} (h : s.SumAt c k t) (hk : firstChecksum c ≤ k) :
    s.sum = BitVec.ofNat 11 (byteSum s.frame.bytes) := by
  rw [← h.full hk, BitVec.ofNat_toNat, BitVec.setWidth_eq]

theorem State.setSum_self {s : State} {x : BitVec 11} (h : s.sum = x) : s.setSum x = s := by
  rw [← h]
  rfl

/-- One ordinary slot in front of what is left of a SEND. -/
theorem finish_afterSlot (c : Config) (bits : List Bool) (y : BitVec 11) (s : State) :
    finishSend ((eofMark c (gappedBits c bits (afterSlot c s))).setSum y) =
      finishSend ((eofMark c (gappedBits c (slotBit c s :: bits) s)).setSum y) := by
  obtain ⟨x, heq⟩ := afterSlot_eq c s
  rw [heq, gappedBits_moved, eofMark_moved, finishSend_setSum_moved, gappedBits_cons]

/-- From the entry of a slot on, the sequencer sends the bits of the frame that are left, then the marker, and exits. -/
theorem runSequencer_from_slot {c : Config} (hc : c.wellFormed = true) (hlen : c.length = 8) (hslots : c.nSlots ≤ 128)
    (bits : List Bool) {s : State} (h : s.AtSlot c) (hbits : (frameBits c s.frame).drop s.slot.toNat = bits) :
    runSequencer c (2 * bits.length + 3) s =
      finishSend ((eofMark c (gappedBits c bits s)).setSum (BitVec.ofNat 11 (byteSum s.frame.bytes))) := by
  induction bits generalizing s with
  | nil =>
    have hrange := h.in_range
    have hlength := frameBits_length hlen s.frame
    have hlast : s.slot.toNat + 1 = c.nSlots := by
      have hend := List.drop_eq_nil_iff.1 hbits
      omega
    have hsum : s.sum = BitVec.ofNat 11 (byteSum s.frame.bytes) :=
      h.partial_sum.sum_eq (by have := nSlots_eq hlen; omega)
    have hmarker := ((eofMark_position c s).sum_eq).trans hsum
    rw [List.length_nil, Nat.mul_zero, Nat.zero_add, runSequencer_last_slot hc h hlast]
    exact congrArg finishSend (State.setSum_self hmarker).symm
  | cons v bits ih =>
    have hlength := frameBits_length hlen s.frame
    have hslot : s.slot.toNat + 1 < c.nSlots := by
      have hleft := congrArg List.length hbits
      simp only [List.length_drop, List.length_cons] at hleft
      omega
    obtain rfl : slotBit c s = v := by
      have hhead := frameBits_slot hlen h.partial_sum hslot
      rw [← List.head?_drop, hbits] at hhead
      exact (Option.some.inj hhead).symm
    have hnext : (afterSlot c s).slot.toNat = s.slot.toNat + 1 := slot_add_one_toNat hslots hslot
    have hframe := (afterSlot_surroundings c s).frame_eq
    have hrest : (frameBits c (afterSlot c s).frame).drop (afterSlot c s).slot.toNat = bits := by
      rw [hframe, hnext, ← List.tail_drop, hbits, List.tail_cons]
    calc runSequencer c (2 * (slotBit c s :: bits).length + 3) s
        = runSequencer c (2 * bits.length + 3) (afterSlot c s) := runSequencer_slot hc h hslot _
      _ = finishSend ((eofMark c (gappedBits c bits (afterSlot c s))).setSum (BitVec.ofNat 11 (byteSum s.frame.bytes))) := by
          rw [ih (h.afterSlot hlen hslots hslot) hrest, hframe]
      _ = finishSend ((eofMark c (gappedBits c (slotBit c s :: bits) s)).setSum (BitVec.ofNat 11 (byteSum s.frame.bytes))) :=
          finish_afterSlot c bits _ s

/-- A SEND just accepted is about to enter the first slot. -/
theorem acceptSend_atSlot (c : Config) {s : State} (hresets : s.resets = []) : (acceptSend s).AtSlot c where
  running := rfl
  no_reset := hresets
  at_wait := rfl
  in_range := by simp [acceptSend, Config.nSlots]
  partial_sum := by simp [State.SumAt, acceptSend, bytesSummed_start, byteSum]

/-- What a well-formed configuration grants the slots (R11; log 19). -/
theorem slots_of_wellFormed {c : Config} (hc : c.wellFormed = true) : c.length = 8 ∧ c.nSlots ≤ 128 := by
  simp only [Config.wellFormed, Bool.and_eq_true, decide_eq_true_eq] at hc
  obtain ⟨⟨⟨-, hlen⟩, hslots⟩, -⟩ := hc
  exact ⟨hlen, hslots⟩

/-- Settles O48: from the acceptance on the sequencer sends all the bits of the frame and the marker, as the micro-program does. -/
theorem sendIsItsMicroProgram : Obligations.SendIsItsMicroProgram := by
  intro c s hc hresets
  obtain ⟨hlen, hslots⟩ := slots_of_wellFormed hc
  have hsteps : subStepsOfSend c = 2 * (frameBits c s.frame).length + 3 := by
    rw [subStepsOfSend, ← frameBits_length hlen s.frame]
    omega
  rw [sendFrame, hsteps, runMicros_microProgram]
  exact runSequencer_from_slot hc hlen hslots _ (acceptSend_atSlot c hresets) rfl

end Sys2Proof.Machine
end

section
/-! The setup commands INIT, SETADDR and SETTYPE: which words decode to them and what their effects write (40_frame_setup.md, R110 to
R113). -/

namespace Sys2Proof.Machine

/-! ### Their words -/

theorem decodeCommand_of_op_init {cw : CommandWord} (hop : opField cw = 0x00#8) : decodeCommand cw = .ok .init := by
  simp [decodeCommand, hop]

theorem decodeCommand_of_op_setaddr {cw : CommandWord} (hop : opField cw = 0x01#8) :
    decodeCommand cw = .ok (.setaddr (lowByte cw)) := by
  simp [decodeCommand, hop]

theorem decodeCommand_of_op_settype {cw : CommandWord} (hop : opField cw = 0x02#8) :
    decodeCommand cw = decodeKind (lowByte cw) := by
  simp [decodeCommand, hop]

/-- `CW[0]` is bit 0 of the operand byte (R83). -/
theorem lowByte_getLsbD_zero (cw : CommandWord) : (lowByte cw).getLsbD 0 = cw.getLsbD 0 := by
  simp [lowByte]

/-- Bit 0 of a tag's raw value tells the tag (R83). -/
theorem DataType.ite_raw_getLsbD_zero (kind : DataType) : (if kind.raw.getLsbD 0 then DataType.none else .htv) = kind := by
  cases kind with
  | htv => rfl
  | none => rfl

/-- An operand byte with `CW[7:1] = 0` is the tag that `CW[0]` names (R83). -/
theorem decodeKind_lowByte {cw : CommandWord} (hkind : cw.extractLsb' 1 7 = 0#7) :
    decodeKind (lowByte cw) = .ok (.settype (if cw.getLsbD 0 then .none else .htv)) := by
  rcases decodeKind_cases (lowByte cw) with ⟨kind, hraw, hdecode⟩ | ⟨hreserved, -⟩
  · rw [hdecode, ← lowByte_getLsbD_zero, hraw, DataType.ite_raw_getLsbD_zero]
  · exact absurd hkind ((kindBits_ne_zero_iff cw).2 hreserved)

/-! ### Their effects -/

/-- INIT on this hardware: the line LOW, with an edge only where it was HIGH, no deadline, the flag at 0 (R110; log 21). -/
theorem initBlock_hardware_eq (s : State) :
    initBlock Config.hardware s =
      { s with line := false, nextEdge := 0#64, errRange := false, log := logChange .line s.line false s.now s.log } := rfl

theorem initBlock_frame (c : Config) (s : State) : (initBlock c s).frame = s.frame := rfl

/-- An operation whose effect is the write of one byte: that address reads the byte, and nothing else changes (R52, R56). -/
theorem exec_writes_one_byte {i : Instr} {s : State} {k : Fin 8} {v : Byte} (hexec : exec i s = .next (s.setByte k v)) :
    ∃ t, exec i s = .next t ∧ t.readByte k = some v ∧ (∀ a, a ≠ (k : Nat) → t.readByte a = s.readByte a) ∧
      t = { s with frame := t.frame } := by
  refine ⟨s.setByte k v, hexec, ?_, fun a ha => ?_, rfl⟩
  · rw [State.readByte_setByte, if_pos rfl]
  · rw [State.readByte_setByte, if_neg ha]

/-- Settles O20: the command is accepted, and its effect leaves the Frame, so that every address reads as before. -/
theorem initClearsLineDeadlineAndFailure : Obligations.InitClearsLineDeadlineAndFailure := by
  refine ⟨fun cw hop => decodeCommand_of_op_init hop, fun s hbusy hrst => ?_⟩
  have hexec : exec .init s = .next (initBlock Config.hardware s) := exec_command rfl hbusy hrst
  exact ⟨_, hexec, initBlock_hardware_eq s, State.readByte_congr (initBlock_frame _ s)⟩

/-- Settles O21: the command is accepted, and its effect is the write of one byte at offset 1. -/
theorem setaddrStoresTheAddress : Obligations.SetaddrStoresTheAddress := by
  refine ⟨fun cw hop => decodeCommand_of_op_setaddr hop, fun addr s hbusy hrst => ?_⟩
  have hexec : exec (.setaddr addr) s = .next (s.setByte 1 addr) := exec_command rfl hbusy hrst
  exact exec_writes_one_byte hexec

/-- Settles O22: the command is accepted, and its effect is the write of the tag's raw value at offset 0. -/
theorem settypeStoresTheTag : Obligations.SettypeStoresTheTag := by
  refine ⟨fun cw hop hkind => (decodeCommand_of_op_settype hop).trans (decodeKind_lowByte hkind), fun kind s hbusy hrst => ?_⟩
  have hexec : exec (.settype kind) s = .next (s.setByte 0 kind.raw) := exec_command rfl hbusy hrst
  exact exec_writes_one_byte hexec

end Sys2Proof.Machine
end

section
/-! The integer of a conversion and its pattern: the reduction to 16 bits (R126), and "add 0.5 then truncate" as a floor and a ceiling
of rationals (R128). -/

namespace Sys2Proof.Machine

/-! ### The reduction to 16 bits -/

theorem u16_toNat (i : Int) : ((u16 i).toNat : Int) = i % 65536 := by
  rw [u16, BitVec.toNat_ofInt]
  omega

/-- What signed 16 bits hold is read back from its pattern (R126). -/
theorem s16_u16 {i : Int} (hlow : -32768 ≤ i) (hhigh : i ≤ 32767) : s16 (u16 i) = i := by
  rw [s16, u16, BitVec.toInt_ofInt]
  exact Int.bmod_eq_of_le (by omega) (by omega)

/-- Settles O29: a pattern is told by its number, and `i + 65536` has the same remainder. -/
theorem patternsWrapModulo65536 : Obligations.PatternsWrapModulo65536 := by
  refine fun i => ⟨u16_toNat i, s16_u16, BitVec.eq_of_toNat_eq ?_⟩
  have hsum := u16_toNat (i + 65536)
  have hself := u16_toNat i
  omega

/-! ### Truncation -/

theorem unitsPerOne_eq : (unitsPerOne : Int) = 2 ^ 149 := by decide

theorem half_unitsPerOne_eq : (unitsPerOne : Int) / 2 = 2 ^ 148 := by decide

theorem unitsValue_nonneg_iff (x : Int) : 0 ≤ unitsValue x ↔ 0 ≤ x := by
  rw [unitsValue, le_div_iff₀ (by norm_num), zero_mul, Int.cast_nonneg_iff]

/-- The addend of the conversion is one half (R120). -/
theorem unitsValue_add_half (s : Int) : unitsValue (s + unitsPerOne / 2) = unitsValue s + 1 / 2 := by
  rw [half_unitsPerOne_eq, unitsValue, unitsValue]
  push_cast
  ring

/-- Truncation of a value that is not negative is its floor. -/
theorem truncUnits_eq_floor {x : Int} (hx : 0 ≤ x) : truncUnits x = ⌊unitsValue x⌋ := by
  have hfloor := Rat.floor_intCast_div_natCast x unitsPerOne
  rw [truncUnits, Int.tdiv_eq_ediv_of_nonneg hx, ← hfloor, unitsValue, unitsPerOne]
  norm_num

/-- Truncation of a value that is not positive is its ceiling. -/
theorem truncUnits_eq_ceil {x : Int} (hx : x ≤ 0) : truncUnits x = ⌈unitsValue x⌉ := by
  have hneg : truncUnits x = -truncUnits (-x) := by rw [truncUnits, truncUnits, Int.neg_tdiv, neg_neg]
  have hvalue : unitsValue (-x) = -unitsValue x := by rw [unitsValue, unitsValue, Int.cast_neg, neg_div]
  rw [hneg, truncUnits_eq_floor (by omega), hvalue, Int.floor_neg, neg_neg]

/-- A value strictly between -1 and 1 is truncated to 0. -/
theorem truncUnits_eq_zero {x : Int} (hlow : -1 < unitsValue x) (hhigh : unitsValue x < 1) : truncUnits x = 0 := by
  rcases le_total 0 x with hx | hx
  · rw [truncUnits_eq_floor hx, Int.floor_eq_zero_iff]
    exact ⟨(unitsValue_nonneg_iff x).2 hx, hhigh⟩
  · have hvalue : unitsValue x ≤ 0 := div_nonpos_of_nonpos_of_nonneg (Int.cast_nonpos.2 hx) (by norm_num)
    rw [truncUnits_eq_ceil hx, Int.ceil_eq_zero_iff]
    exact ⟨hlow, hvalue⟩

/-- A negative integer has one half added and is truncated upwards: one too high (R128). -/
theorem truncUnits_negative_integer {n : Nat} (hn : 1 ≤ n) :
    truncUnits (-(n : Int) * unitsPerOne + unitsPerOne / 2) = -(n : Int) + 1 := by
  have hvalue : unitsValue (-(n : Int) * unitsPerOne) = ((-(n : Int) : Int) : ℚ) := by
    rw [unitsPerOne_eq, unitsValue]
    push_cast
    ring
  have hceil : ⌈(1 / 2 : ℚ)⌉ = 1 := by norm_num
  have hnonpos : -(n : Int) * unitsPerOne + unitsPerOne / 2 ≤ 0 := by
    rw [half_unitsPerOne_eq, unitsPerOne_eq]
    omega
  rw [truncUnits_eq_ceil hnonpos, unitsValue_add_half, hvalue, Int.ceil_intCast_add, hceil]

/-- Settles O30: with the half added, the sign of the sum decides between floor and ceiling. -/
theorem roundingMisroundsNegativeValues : Obligations.RoundingMisroundsNegativeValues := by
  refine ⟨fun s => ?_, fun n => truncUnits_negative_integer⟩
  have hsign := unitsValue_nonneg_iff (s + unitsPerOne / 2)
  rw [← unitsValue_add_half]
  rw [unitsValue_add_half] at hsign
  refine ⟨fun hs => ?_, fun hs => ?_, fun hlow hhigh => ?_⟩
  · exact truncUnits_eq_floor (hsign.1 (by linarith))
  · have hneg : ¬ 0 ≤ s + (unitsPerOne : Int) / 2 := fun h => by linarith [hsign.2 h]
    exact truncUnits_eq_ceil (by omega)
  · apply truncUnits_eq_zero <;> rw [unitsValue_add_half] <;> linarith

end Sys2Proof.Machine
end

section
/-! SETDATA under `RANGE_POLICY = FAIL`: the two ways it ends (R131, R191 to R195). -/

namespace Sys2Proof.Machine

theorem Conversion.inRange_integer_iff (i : Int) : (Conversion.integer i).inRange = true ↔ -32768 ≤ i ∧ i ≤ 32767 := by
  simp only [Conversion.inRange, Bool.and_eq_true, decide_eq_true_eq]

/-- A conversion that is in range is an integer that signed 16 bits hold (R131). -/
theorem Conversion.inRange_iff (r : Conversion) : r.inRange = true ↔ ∃ i, r = .integer i ∧ -32768 ≤ i ∧ i ≤ 32767 := by
  cases r with
  | integer i => simp only [Conversion.inRange_integer_iff, Conversion.integer.injEq, exists_eq_left']
  | nonfinite => simp [Conversion.inRange]

/-- Under `FAIL` the flag is written, with an event where it changes, and nothing else (R194). -/
theorem State.setErrRange_eq_of_fail {c : Config} (hfail : c.rangePolicy = .fail) (b : Bool) (s : State) :
    s.setErrRange c b = { s with errRange := b, log := logChange .errRange s.errRange b s.now s.log } := by
  simp only [State.setErrRange, hfail]

/-- Under `FAIL` the cause is told by the flag (R192). -/
theorem State.cause_setErrRange {c : Config} (hfail : c.rangePolicy = .fail) (b : Bool) (s : State) :
    ((s.setErrRange c b).cause c).code = if b then 1 else 0 := by
  cases b <;> simp [State.cause, State.errRangeReads, State.setErrRange, hfail, Cause.code]

theorem setData_of_fail {c : Config} (hfail : c.rangePolicy = .fail) (temp humidity voltage : Single) (s : State) :
    setData c temp humidity voltage s =
      setDataFail c (fx c.numerics temp 50) (fx c.numerics humidity 0) (fx c.numerics voltage 0) s := by
  simp only [setData, hfail, Config.offsetT, Config.offsetH, Config.offsetV]

/-- All three in range: the three patterns are written and the flag is cleared (R131). -/
theorem setDataFail_of_inRange (c : Config) {i1 i2 i3 : Int} (h1 : (Conversion.integer i1).inRange = true)
    (h2 : (Conversion.integer i2).inRange = true) (h3 : (Conversion.integer i3).inRange = true) (s : State) :
    setDataFail c (.integer i1) (.integer i2) (.integer i3) s =
      (s.setValues (u16 i1) (u16 i2) (u16 i3)).clearRangeFailure c := by
  simp [setDataFail, h1, h2, h3]

/-- One that is not: the failure is taken (R131). -/
theorem setDataFail_of_not_inRange (c : Config) {r1 r2 r3 : Conversion} (h : ∃ r ∈ [r1, r2, r3], r.inRange = false) (s : State) :
    setDataFail c r1 r2 r3 s = s.takeRangeFailure c := by
  have hnot : ¬ (r1.inRange && r2.inRange && r3.inRange) = true := by
    obtain ⟨r, hr, hfalse⟩ := h
    simp only [List.mem_cons, List.not_mem_nil, or_false] at hr
    rcases hr with rfl | rfl | rfl <;> simp [hfalse]
  match r1, r2, r3 with
  | .integer _, .integer _, .integer _ => exact if_neg hnot
  | .nonfinite, _, _ => rfl
  | .integer _, .nonfinite, _ => rfl
  | .integer _, .integer _, .nonfinite => rfl

/-- Settles O34, by the two ways SETDATA ends under `FAIL`. -/
theorem failPolicyWritesAllOrNothing : Obligations.FailPolicyWritesAllOrNothing := by
  intro c temp humidity voltage s hfail
  rw [setData_of_fail hfail]
  refine ⟨fun i1 i2 i3 h1 h2 h3 hrange => ?_, fun ⟨r, hr, hbad⟩ => ?_⟩
  · have hin : ∀ i ∈ [i1, i2, i3], (Conversion.integer i).inRange = true :=
      fun i hi => (Conversion.inRange_integer_iff i).2 (hrange i hi)
    rw [h1, h2, h3, setDataFail_of_inRange c (hin i1 (by simp)) (hin i2 (by simp)) (hin i3 (by simp)), State.clearRangeFailure]
    exact ⟨State.setErrRange_eq_of_fail hfail false _, State.cause_setErrRange hfail false _⟩
  · have hout : r.inRange = false := by
      rw [← Bool.not_eq_true, Conversion.inRange_iff]
      rintro ⟨i, hi, hlow, hhigh⟩
      rcases hbad i hi with h | h <;> omega
    rw [setDataFail_of_not_inRange c ⟨r, hr, hout⟩, State.takeRangeFailure]
    exact ⟨State.setErrRange_eq_of_fail hfail true s, State.cause_setErrRange hfail true s⟩

end Sys2Proof.Machine
end

section
/-! `RN` (R122): the rounded magnitude is a magnitude with 24 significant bits, no such magnitude is nearer, and a tie goes to the even
significand. That it is monotone follows from its being nearest. -/

namespace Sys2Proof.Machine

/-! ### Magnitudes with 24 significant bits -/

/-- A magnitude in units that 24 significant bits hold, whatever its exponent. -/
def FitsSignificand (b : Nat) : Prop := ∃ m e : Nat, m < 2 ^ 24 ∧ b = m * 2 ^ e

/-- The claims' values of R84 are these magnitudes below 2^128. -/
theorem isBinary32_iff (y : Int) : IsBinary32 y ↔ FitsSignificand y.natAbs ∧ y.natAbs < 2 ^ 277 := by
  constructor
  · rintro ⟨m, e, hm, hy, hlt⟩
    exact ⟨⟨m, e, hm, hy⟩, hlt⟩
  · rintro ⟨⟨m, e, hm, hy⟩, hlt⟩
    exact ⟨m, e, hm, hy, hlt⟩

/-- The successor of a normalised significand fits, at the next exponent where it carries. -/
theorem fitsSignificand_succ {m : Nat} (hm : m < 2 ^ 24) (k : Nat) : FitsSignificand ((m + 1) * 2 ^ k) := by
  rcases Nat.lt_or_ge (m + 1) (2 ^ 24) with hlt | hge
  · exact ⟨m + 1, k, hlt, rfl⟩
  · refine ⟨2 ^ 23, k + 1, by decide, ?_⟩
    rw [show m + 1 = 2 ^ 24 by omega]
    ring

/-- Between two neighbouring normalised significands at one exponent nothing fits. -/
theorem fitsSignificand_gap {m k b : Nat} (hm : 2 ^ 23 ≤ m) (hb : FitsSignificand b) : b ≤ m * 2 ^ k ∨ (m + 1) * 2 ^ k ≤ b := by
  obtain ⟨q, e, hq, rfl⟩ := hb
  rcases Nat.lt_or_ge e k with he | he
  · left
    obtain ⟨d, rfl⟩ := Nat.exists_eq_add_of_lt he
    calc q * 2 ^ e ≤ 2 ^ 24 * 2 ^ e := Nat.mul_le_mul_right _ hq.le
      _ = 2 ^ 23 * 2 ^ (e + 1) := by ring
      _ ≤ m * 2 ^ (e + d + 1) := Nat.mul_le_mul hm (Nat.pow_le_pow_right (by decide) (by omega))
  · obtain ⟨d, rfl⟩ := Nat.exists_eq_add_of_le he
    have hsplit : q * 2 ^ (k + d) = q * 2 ^ d * 2 ^ k := by ring
    rw [hsplit]
    rcases Nat.lt_or_ge m (q * 2 ^ d) with h | h
    · exact .inr (Nat.mul_le_mul_right _ h)
    · exact .inl (Nat.mul_le_mul_right _ h)

/-! ### The rounded magnitude -/

/-- What rounding does: below 2^24 units nothing; above, with `m` the 24 leading bits and `rest` what they leave of a step `2^k`, it goes
down or up to a neighbour that is not farther, on a tie to the even one (R122). -/
theorem roundMagnitude_cases (a : Nat) :
    (a < 2 ^ 24 ∧ roundMagnitude a = a) ∨
      ∃ m k rest, 2 ^ 23 ≤ m ∧ m < 2 ^ 24 ∧ rest < 2 ^ k ∧ a = m * 2 ^ k + rest ∧
        ((roundMagnitude a = m * 2 ^ k ∧ 2 * rest ≤ 2 ^ k ∧ (2 * rest = 2 ^ k → m % 2 = 0)) ∨
          (roundMagnitude a = (m + 1) * 2 ^ k ∧ 2 ^ k ≤ 2 * rest ∧ (2 * rest = 2 ^ k → m % 2 = 1))) := by
  rcases Nat.lt_or_ge a (2 ^ 24) with hsmall | hlarge
  · exact .inl ⟨hsmall, if_pos hsmall⟩
  · right
    have hne : a ≠ 0 := by omega
    have hlog : 24 ≤ a.log2 := (Nat.le_log2 hne).2 hlarge
    have hround : roundMagnitude a = _ := if_neg (Nat.not_lt.2 hlarge)
    obtain ⟨k, hk⟩ := Nat.exists_eq_add_of_le (show 23 ≤ a.log2 by omega)
    have hlow : 2 ^ 23 * 2 ^ k ≤ a := by
      rw [← Nat.pow_add, ← hk]
      exact (Nat.le_log2 hne).1 le_rfl
    have hhigh : a < 2 ^ 24 * 2 ^ k := by
      rw [← Nat.pow_add, show 24 + k = a.log2 + 1 by omega]
      exact Nat.lt_log2_self
    have hpos : 0 < 2 ^ k := Nat.two_pow_pos k
    rw [show a.log2 - 23 = k by omega] at hround
    refine ⟨a / 2 ^ k, k, a % 2 ^ k, (Nat.le_div_iff_mul_le hpos).2 hlow, (Nat.div_lt_iff_lt_mul hpos).2 hhigh, Nat.mod_lt a hpos,
      (Nat.div_add_mod' a (2 ^ k)).symm, ?_⟩
    by_cases hup : 2 ^ k < 2 * (a % 2 ^ k) ∨ (2 * (a % 2 ^ k) = 2 ^ k ∧ a / 2 ^ k % 2 = 1)
    · exact .inr ⟨hround.trans (if_pos hup), by omega, by omega⟩
    · exact .inl ⟨hround.trans (if_neg hup), by omega, by omega⟩

theorem roundMagnitude_fits (a : Nat) : FitsSignificand (roundMagnitude a) := by
  rcases roundMagnitude_cases a with ⟨hsmall, hround⟩ | ⟨m, k, rest, -, hm, -, -, ⟨hround, -, -⟩ | ⟨hround, -, -⟩⟩
  · exact ⟨a, 0, hsmall, by simp [hround]⟩
  · exact ⟨m, k, hm, hround⟩
  · exact hround ▸ fitsSignificand_succ hm k

/-- No magnitude that fits is nearer (R122). -/
theorem roundMagnitude_nearest (a : Nat) {b : Nat} (hb : FitsSignificand b) :
    ((a : Int) - roundMagnitude a).natAbs ≤ ((a : Int) - b).natAbs := by
  rcases roundMagnitude_cases a with ⟨-, hround⟩ | ⟨m, k, rest, hm, -, hrest, ha, hcase⟩
  · simp [hround]
  · have hgap := fitsSignificand_gap (k := k) hm hb
    rw [Nat.add_one_mul m (2 ^ k)] at hgap hcase
    rcases hcase with ⟨hround, hle, -⟩ | ⟨hround, hle, -⟩ <;> rw [hround] <;> omega

/-- Where another magnitude that fits is as near, the significand is even (R122). -/
theorem roundMagnitude_even_of_tie {a b : Nat} (hb : FitsSignificand b) (hne : b ≠ roundMagnitude a)
    (htie : ((a : Int) - b).natAbs = ((a : Int) - roundMagnitude a).natAbs) :
    ∃ m e, m < 2 ^ 24 ∧ (2 ^ 23 ≤ m ∨ e = 0) ∧ m % 2 = 0 ∧ roundMagnitude a = m * 2 ^ e := by
  rcases roundMagnitude_cases a with ⟨-, hround⟩ | ⟨m, k, rest, hm, hm', hrest, ha, hcase⟩
  · rw [hround] at htie hne
    omega
  · have hgap := fitsSignificand_gap (k := k) hm hb
    rcases hcase with ⟨hround, hle, heven⟩ | ⟨hround, hle, hodd⟩
    · refine ⟨m, k, hm', .inl hm, heven ?_, hround⟩
      rw [Nat.add_one_mul m (2 ^ k)] at hgap
      rw [hround] at hne htie
      omega
    · have hm2 : m % 2 = 1 := by
        apply hodd
        rw [hround] at hne htie
        rw [Nat.add_one_mul m (2 ^ k)] at hgap hne htie
        omega
      rcases Nat.lt_or_ge (m + 1) (2 ^ 24) with hlt | hge
      · exact ⟨m + 1, k, hlt, .inl (by omega), by omega, hround⟩
      · refine ⟨2 ^ 23, k + 1, by decide, .inl le_rfl, by decide, ?_⟩
        rw [hround, show m + 1 = 2 ^ 24 by omega]
        ring

/-- Of two values in the wrong order the smaller argument is not nearer to the smaller value: so rounding is monotone. -/
theorem roundMagnitude_mono {a b : Nat} (h : a ≤ b) : roundMagnitude a ≤ roundMagnitude b := by
  rcases h.eq_or_lt with rfl | hlt
  · exact le_rfl
  · by_contra hgt
    have ha := roundMagnitude_nearest a (roundMagnitude_fits b)
    have hb := roundMagnitude_nearest b (roundMagnitude_fits a)
    omega

/-- The rounding error is at most 2^-24 of the magnitude. -/
theorem roundMagnitude_error (a : Nat) : 2 ^ 24 * ((a : Int) - roundMagnitude a).natAbs ≤ a := by
  rcases roundMagnitude_cases a with ⟨-, hround⟩ | ⟨m, k, rest, hm, -, hrest, ha, hcase⟩
  · simp [hround]
  · have hlow : 2 ^ 23 * 2 ^ k ≤ m * 2 ^ k := Nat.mul_le_mul_right _ hm
    rw [Nat.add_one_mul m (2 ^ k)] at hcase
    rcases hcase with ⟨hround, hle, -⟩ | ⟨hround, hle, -⟩ <;> rw [hround] <;> omega

/-! ### The rounded value -/

/-- A value in units, rounded as `RN` rounds it, before the check for overflow. -/
def roundUnits (x : Int) : Int := applySign (decide (x < 0)) (roundMagnitude x.natAbs)

theorem roundUnits_of_nonneg {x : Int} (hx : 0 ≤ x) : roundUnits x = roundMagnitude x.natAbs := by
  simp [roundUnits, applySign, hx]

theorem roundUnits_of_neg {x : Int} (hx : x < 0) : roundUnits x = -(roundMagnitude x.natAbs : Int) := by
  simp [roundUnits, applySign, hx]

theorem roundUnits_natAbs (x : Int) : (roundUnits x).natAbs = roundMagnitude x.natAbs := by
  rcases lt_or_ge x 0 with hx | hx
  · rw [roundUnits_of_neg hx, Int.natAbs_neg, Int.natAbs_natCast]
  · rw [roundUnits_of_nonneg hx, Int.natAbs_natCast]

/-- `RN` is the rounded value, or where that reaches 2^128 an infinity (R122). -/
theorem roundNearest_eq (x : Int) :
    roundNearest x = if 2 ^ 277 ≤ (roundUnits x).natAbs then .infinite (decide (x < 0)) else .finite (roundUnits x) := by
  rw [roundUnits_natAbs]
  rfl

/-- Rounding keeps the sign, so the error of the value is that of the magnitude. -/
theorem natAbs_sub_roundUnits (x : Int) :
    (x - roundUnits x).natAbs = ((x.natAbs : Int) - roundMagnitude x.natAbs).natAbs := by
  rcases lt_or_ge x 0 with hx | hx
  · rw [roundUnits_of_neg hx]
    omega
  · rw [roundUnits_of_nonneg hx]
    omega

theorem roundUnits_error (x : Int) : 2 ^ 24 * (x - roundUnits x).natAbs ≤ x.natAbs := by
  rw [natAbs_sub_roundUnits]
  exact roundMagnitude_error x.natAbs

theorem roundUnits_mono {x y : Int} (h : x ≤ y) : roundUnits x ≤ roundUnits y := by
  rcases lt_or_ge x 0 with hx | hx
  · rw [roundUnits_of_neg hx]
    rcases lt_or_ge y 0 with hy | hy
    · have hmono := roundMagnitude_mono (show y.natAbs ≤ x.natAbs by omega)
      rw [roundUnits_of_neg hy]
      omega
    · rw [roundUnits_of_nonneg hy]
      omega
  · have hmono := roundMagnitude_mono (show x.natAbs ≤ y.natAbs by omega)
    rw [roundUnits_of_nonneg hx, roundUnits_of_nonneg (hx.trans h)]
    omega

/-! ### Round to nearest, ties to even -/

/-- The rounded magnitude reaches 2^128 from 2^128 - 2^103 on (R122). -/
theorem roundMagnitude_overflows_iff (a : Nat) : 2 ^ 277 ≤ roundMagnitude a ↔ 2 ^ 277 - 2 ^ 252 ≤ a := by
  have hfirst : roundMagnitude (2 ^ 277 - 2 ^ 252) = 2 ^ 277 := by decide +kernel
  have hlast : roundMagnitude (2 ^ 277 - 2 ^ 252 - 1) = 2 ^ 277 - 2 ^ 253 := by decide +kernel
  constructor
  · intro hover
    by_contra hbelow
    have hmono := roundMagnitude_mono (show a ≤ 2 ^ 277 - 2 ^ 252 - 1 by omega)
    omega
  · intro habove
    exact hfirst ▸ roundMagnitude_mono habove

/-- The rounded value overflows from 2^128 - 2^103 on, of either sign (R122). -/
theorem roundUnits_overflows_iff (x : Int) : 2 ^ 277 ≤ (roundUnits x).natAbs ↔ 2 ^ 277 - 2 ^ 252 ≤ x.natAbs := by
  rw [roundUnits_natAbs]
  exact roundMagnitude_overflows_iff x.natAbs

/-- No binary32 value is nearer: neither by its magnitude nor by its sign. -/
theorem roundUnits_nearest (x : Int) {z : Int} (hz : FitsSignificand z.natAbs) : (x - roundUnits x).natAbs ≤ (x - z).natAbs := by
  have hnearest := roundMagnitude_nearest x.natAbs hz
  rw [natAbs_sub_roundUnits]
  omega

/-- A value as near as the rounded one has the sign of the argument, so that the tie is one of magnitudes. -/
theorem roundUnits_even_of_tie {x z : Int} (hz : FitsSignificand z.natAbs) (hne : z ≠ roundUnits x)
    (htie : (x - z).natAbs = (x - roundUnits x).natAbs) : HasEvenSignificand (roundUnits x) := by
  have hnearest := roundMagnitude_nearest x.natAbs hz
  have hmagnitude : z.natAbs ≠ roundMagnitude x.natAbs := by
    intro hsame
    have herror := roundMagnitude_error x.natAbs
    rcases lt_or_ge x 0 with hx | hx
    · rw [roundUnits_of_neg hx] at hne htie
      omega
    · rw [roundUnits_of_nonneg hx] at hne htie
      omega
  rw [natAbs_sub_roundUnits] at htie
  rw [HasEvenSignificand, roundUnits_natAbs]
  exact roundMagnitude_even_of_tie hz hmagnitude (by omega)

/-- Settles O27, by the overflow threshold of the rounded magnitude, and below it nearest and even as shown for the rounded value. -/
theorem roundingIsToNearestEven : Obligations.RoundingIsToNearestEven := by
  refine ⟨by decide +kernel, fun x => ?_⟩
  have hoverflow := roundUnits_overflows_iff x
  simp only [roundNearest_eq, Int.abs_eq_natAbs]
  refine ⟨fun hx => if_pos (hoverflow.2 (by omega)), fun hx => ?_⟩
  have hfinite : ¬ 2 ^ 277 ≤ (roundUnits x).natAbs := fun h => by
    have := hoverflow.1 h
    omega
  have hfits : FitsSignificand (roundUnits x).natAbs := roundUnits_natAbs x ▸ roundMagnitude_fits x.natAbs
  exact ⟨roundUnits x, if_neg hfinite, (isBinary32_iff _).2 ⟨hfits, by omega⟩,
    fun z hz => Int.ofNat_le.2 (roundUnits_nearest x ((isBinary32_iff z).1 hz).1),
    fun z hz hne htie => roundUnits_even_of_tie ((isBinary32_iff z).1 hz).1 hne (Int.ofNat_inj.1 htie)⟩

end Sys2Proof.Machine
end

section
/-! The conversion of a finite word as a monotone function of its value (R124): the three steps without the checks for an infinity, which
come to one check of the last step, since a value that overflows stays past the overflow. -/

namespace Sys2Proof.Machine

/-! ### Truncation -/

theorem truncUnits_mono {x y : Int} (h : x ≤ y) : truncUnits x ≤ truncUnits y :=
  Int.tdiv_le_tdiv (by decide) h

/-- Truncation takes away less than 1. -/
theorem natAbs_sub_truncUnits (x : Int) : (x - truncUnits x * 2 ^ 149).natAbs < 2 ^ 149 := by
  have hsum := Int.tmod_add_tdiv_mul x unitsPerOne
  have hrest : (x.tmod unitsPerOne).natAbs < 2 ^ 149 := by
    rw [Int.natAbs_tmod]
    exact Nat.mod_lt _ (by decide)
  rw [truncUnits]
  rw [unitsPerOne_eq] at hsum hrest ⊢
  omega

/-! ### The steps of the conversion -/

/-- The result of one arithmetic step, as `NUMERICS` has it (R123), before the check for overflow. -/
def roundedBy : Numerics → Int → Int
  | .binary32Stepwise, x => roundUnits x
  | .exactReal, x => x

/-- Whether the result of a step is an infinity: only rounding makes one (R122, R123). -/
def overflowsBy : Numerics → Int → Bool
  | .binary32Stepwise, x => decide (2 ^ 277 ≤ x.natAbs)
  | .exactReal, _ => false

/-- `s1` of R124. -/
def offsetUnits (numerics : Numerics) (offset : Nat) (v : Int) : Int := roundedBy numerics (v + offset * unitsPerOne)

/-- `s2` of R124. -/
def scaledUnits (numerics : Numerics) (offset : Nat) (v : Int) : Int :=
  roundedBy numerics (offsetUnits numerics offset v * Config.scale)

/-- `s3` of R124. -/
def halfAddedUnits (numerics : Numerics) (offset : Nat) (v : Int) : Int :=
  roundedBy numerics (scaledUnits numerics offset v + unitsPerOne / 2)

/-- The integer of R124, before the check for overflow. -/
def convertedInteger (numerics : Numerics) (offset : Nat) (v : Int) : Int := truncUnits (halfAddedUnits numerics offset v)

theorem roundedBy_mono (numerics : Numerics) {x y : Int} (h : x ≤ y) : roundedBy numerics x ≤ roundedBy numerics y := by
  cases numerics with
  | binary32Stepwise => exact roundUnits_mono h
  | exactReal => exact h

theorem roundedBy_error (numerics : Numerics) (x : Int) : 2 ^ 24 * (x - roundedBy numerics x).natAbs ≤ x.natAbs := by
  cases numerics with
  | binary32Stepwise => exact roundUnits_error x
  | exactReal => simp [roundedBy]

theorem halfAddedUnits_mono (numerics : Numerics) (offset : Nat) {v v' : Int} (h : v ≤ v') :
    halfAddedUnits numerics offset v ≤ halfAddedUnits numerics offset v' := by
  have hoffset : offsetUnits numerics offset v ≤ offsetUnits numerics offset v' := roundedBy_mono numerics (by omega)
  have hscaled : scaledUnits numerics offset v ≤ scaledUnits numerics offset v' :=
    roundedBy_mono numerics (Int.mul_le_mul_of_nonneg_right hoffset (by decide))
  exact roundedBy_mono numerics (by omega)

theorem convertedInteger_mono (numerics : Numerics) (offset : Nat) {v v' : Int} (h : v ≤ v') :
    convertedInteger numerics offset v ≤ convertedInteger numerics offset v' :=
  truncUnits_mono (halfAddedUnits_mono numerics offset h)

/-! ### `FX` by its steps -/

theorem Binary32.onFinite_finite (x : Int) (next : Int → Conversion) : (Binary32.finite x).onFinite next = next x := rfl

/-- One rounded step, with the rest of the conversion behind it (R124). -/
theorem onFinite_roundNearest (x : Int) (next : Int → Conversion) :
    (roundNearest x).onFinite next =
      bif overflowsBy .binary32Stepwise (roundUnits x) then .nonfinite else next (roundUnits x) := by
  rw [roundNearest_eq, overflowsBy, Bool.cond_decide]
  split <;> rfl

/-- Scaling a value past the overflow leaves it there. -/
theorem scaledUnits_overflows {offset : Nat} {v : Int}
    (h : overflowsBy .binary32Stepwise (offsetUnits .binary32Stepwise offset v) = true) :
    overflowsBy .binary32Stepwise (scaledUnits .binary32Stepwise offset v) = true := by
  simp only [overflowsBy, decide_eq_true_eq] at h ⊢
  refine (roundUnits_overflows_iff _).2 ?_
  rw [Config.scale]
  omega

/-- So does adding one half. -/
theorem halfAddedUnits_overflows {offset : Nat} {v : Int}
    (h : overflowsBy .binary32Stepwise (scaledUnits .binary32Stepwise offset v) = true) :
    overflowsBy .binary32Stepwise (halfAddedUnits .binary32Stepwise offset v) = true := by
  simp only [overflowsBy, decide_eq_true_eq] at h ⊢
  refine (roundUnits_overflows_iff _).2 ?_
  rw [half_unitsPerOne_eq]
  omega

/-- `FX` of a finite word: `NONFINITE` where the last step overflows, and otherwise the integer (R124). -/
theorem fx_of_finite {w : Single} {v : Int} (hw : f32 w = .finite v) (numerics : Numerics) (offset : Nat) :
    fx numerics w offset =
      if overflowsBy numerics (halfAddedUnits numerics offset v) = true then .nonfinite
      else .integer (convertedInteger numerics offset v) := by
  cases numerics with
  | exactReal =>
    rw [fx, hw]
    rfl
  | binary32Stepwise =>
    have hsteps : fx .binary32Stepwise w offset =
        bif overflowsBy .binary32Stepwise (offsetUnits .binary32Stepwise offset v) then .nonfinite
        else bif overflowsBy .binary32Stepwise (scaledUnits .binary32Stepwise offset v) then .nonfinite
        else bif overflowsBy .binary32Stepwise (halfAddedUnits .binary32Stepwise offset v) then .nonfinite
        else .integer (convertedInteger .binary32Stepwise offset v) := by
      simp only [fx, hw, Binary32.onFinite_finite, onFinite_roundNearest, convertedInteger, halfAddedUnits, scaledUnits,
        offsetUnits, roundedBy]
    rw [hsteps]
    by_cases hlast : overflowsBy .binary32Stepwise (halfAddedUnits .binary32Stepwise offset v) = true
    · simp only [hlast, cond_true, Bool.cond_self, if_true]
    · have hscaled := mt halfAddedUnits_overflows hlast
      have hoffset := mt scaledUnits_overflows hscaled
      simp only [Bool.eq_false_iff.2 hoffset, Bool.eq_false_iff.2 hscaled, Bool.eq_false_iff.2 hlast, cond_false, Bool.false_eq_true,
        if_false]

/-- A word that is not finite does not convert (R124). -/
theorem fx_of_exponent_255 {w : Single} (h : exponentField w = 255) (numerics : Numerics) (offset : Nat) :
    fx numerics w offset = .nonfinite := by
  by_cases hfrac : fractionField w = 0
  · cases numerics <;> simp only [fx, f32_of_infinity h hfrac, Binary32.onFinite]
  · cases numerics <;> simp only [fx, f32_of_nan h hfrac, Binary32.onFinite]

/-- An integer that `FX` answers is the integer of its steps. -/
theorem convertedInteger_of_fx {w : Single} {v : Int} (hw : f32 w = .finite v) {numerics : Numerics} {offset : Nat} {i : Int}
    (h : fx numerics w offset = .integer i) : convertedInteger numerics offset v = i := by
  rw [fx_of_finite hw] at h
  split at h
  · cases h
  · exact Conversion.integer.inj h

/-- Where the integer is within signed 16 bits, no step has overflowed. -/
theorem fx_of_small {w : Single} {v : Int} (hw : f32 w = .finite v) {numerics : Numerics} {offset : Nat}
    (hlow : -32768 ≤ convertedInteger numerics offset v) (hhigh : convertedInteger numerics offset v ≤ 32767) :
    fx numerics w offset = .integer (convertedInteger numerics offset v) := by
  have hfinite : ¬ overflowsBy numerics (halfAddedUnits numerics offset v) = true := by
    have htrunc := natAbs_sub_truncUnits (halfAddedUnits numerics offset v)
    cases numerics with
    | exactReal => exact Bool.false_ne_true
    | binary32Stepwise =>
      rw [convertedInteger] at hlow hhigh
      simp only [overflowsBy, decide_eq_true_eq]
      omega
  rw [fx_of_finite hw, if_neg hfinite]

/-- A finite word is represented without wrapping where the integer of its steps is (R126, R132). -/
theorem fx_inRange_iff {w : Single} {v : Int} (hw : f32 w = .finite v) (numerics : Numerics) (offset : Nat) :
    (fx numerics w offset).inRange = true ↔
      -32768 ≤ convertedInteger numerics offset v ∧ convertedInteger numerics offset v ≤ 32767 := by
  constructor
  · intro h
    obtain ⟨i, hi, hlow, hhigh⟩ := (Conversion.inRange_iff _).1 h
    rw [convertedInteger_of_fx hw hi]
    exact ⟨hlow, hhigh⟩
  · rintro ⟨hlow, hhigh⟩
    rw [fx_of_small hw hlow hhigh]
    exact (Conversion.inRange_integer_iff _).2 ⟨hlow, hhigh⟩

/-! ### Values next to zero -/

/-- Up to 2^-126 a value converts as zero does (R129): so do the ends of that interval. -/
theorem convertedInteger_of_tiny (numerics : Numerics) {v : Int} (hv : v.natAbs ≤ 2 ^ 23) :
    convertedInteger numerics 50 v = 5000 ∧ convertedInteger numerics 0 v = 0 := by
  have hends : convertedInteger numerics 50 (-2 ^ 23) = 5000 ∧ convertedInteger numerics 50 (2 ^ 23) = 5000 ∧
      convertedInteger numerics 0 (-2 ^ 23) = 0 ∧ convertedInteger numerics 0 (2 ^ 23) = 0 := by
    cases numerics <;> decide +kernel
  obtain ⟨hlow50, hhigh50, hlow0, hhigh0⟩ := hends
  have hlow : -2 ^ 23 ≤ v := by omega
  have hhigh : v ≤ 2 ^ 23 := by omega
  exact ⟨le_antisymm (hhigh50 ▸ convertedInteger_mono numerics 50 hhigh) (hlow50 ▸ convertedInteger_mono numerics 50 hlow),
    le_antisymm (hhigh0 ▸ convertedInteger_mono numerics 0 hhigh) (hlow0 ▸ convertedInteger_mono numerics 0 hlow)⟩

theorem applySign_false (n : Nat) : applySign false n = n := rfl

theorem applySign_true (n : Nat) : applySign true n = -(n : Int) := rfl

theorem applySign_natAbs (negative : Bool) (n : Nat) : (applySign negative n).natAbs = n := by
  cases negative with
  | false => rfl
  | true => exact Int.natAbs_neg n

/-- Settles O31: a word with exponent 0 is at most 2^-126, and one with exponent 255 is not finite. -/
theorem tinyInputsConvertAsZero : Obligations.TinyInputsConvertAsZero := by
  refine fun numerics w => ⟨fun (hexp : exponentField w = 0) => ?_, fun hexp =>
    ⟨fx_of_exponent_255 hexp numerics 50, fx_of_exponent_255 hexp numerics 0⟩⟩
  have hw := f32_of_subnormal hexp
  have hfrac : fractionField w < 2 ^ 23 := BitVec.isLt _
  obtain ⟨h50, h0⟩ := convertedInteger_of_tiny numerics (v := applySign (signBit w) (fractionField w))
    (by rw [applySign_natAbs]; omega)
  exact ⟨h50 ▸ fx_of_small hw (by omega) (by omega), h0 ▸ fx_of_small hw (by omega) (by omega)⟩

end Sys2Proof.Machine
end

section
/-! The finite words in their order (R84), and where the conversion ends along it: at the first word that overflows (R124) and at the
boundary words of signed 16 bits (R132). -/

namespace Sys2Proof.Machine

/-! ### The finite words in their order -/

/-- The magnitude, in units, of the word whose low 31 bits are `n` (R84). -/
def wordMagnitude (n : Nat) : Nat := if n < 2 ^ 23 then n else (2 ^ 23 + n % 2 ^ 23) * 2 ^ (n / 2 ^ 23 - 1)

theorem exponentField_eq (w : Single) : exponentField w = w.toNat % 2 ^ 31 / 2 ^ 23 := by
  rw [exponentField, BitVec.extractLsb'_toNat, Nat.shiftRight_eq_div_pow]
  omega

theorem fractionField_eq (w : Single) : fractionField w = w.toNat % 2 ^ 31 % 2 ^ 23 := by
  rw [fractionField, BitVec.extractLsb'_toNat, Nat.shiftRight_eq_div_pow]
  omega

theorem signBit_eq (w : Single) : signBit w = decide (2 ^ 31 ≤ w.toNat) := BitVec.msb_eq_decide w

/-- A word below the exponent 255 is finite: its magnitude with its sign (R84). -/
theorem f32_of_lt {w : Single} (h : w.toNat % 2 ^ 31 < 0x7F800000) :
    f32 w = .finite (applySign (signBit w) (wordMagnitude (w.toNat % 2 ^ 31))) := by
  have hexp := exponentField_eq w
  have hfrac := fractionField_eq w
  rcases Nat.lt_or_ge (w.toNat % 2 ^ 31) (2 ^ 23) with hlow | hhigh
  · rw [f32_of_subnormal (by omega), hfrac, wordMagnitude, if_pos hlow, Nat.mod_eq_of_lt hlow]
  · rw [f32_of_normal (by omega) (by omega), hfrac, hexp, wordMagnitude, if_neg (Nat.not_lt.2 hhigh)]

theorem f32_of_positive {w : Single} (h : w.toNat < 0x7F800000) : f32 w = .finite (wordMagnitude w.toNat : Nat) := by
  have hmod : w.toNat % 2 ^ 31 = w.toNat := Nat.mod_eq_of_lt (by omega)
  have hsign : signBit w = false := by
    rw [signBit_eq, decide_eq_false_iff_not]
    omega
  rw [f32_of_lt (by omega), hmod, hsign, applySign_false]

theorem f32_of_negative {w : Single} (hlow : 0x80000000 ≤ w.toNat) (hhigh : w.toNat < 0xFF800000) :
    f32 w = .finite (-(wordMagnitude (w.toNat - 2 ^ 31) : Nat)) := by
  have hmod : w.toNat % 2 ^ 31 = w.toNat - 2 ^ 31 := by omega
  have hsign : signBit w = true := by
    rw [signBit_eq, decide_eq_true_eq]
    exact hlow
  rw [f32_of_lt (by omega), hmod, hsign, applySign_true]

/-- A greater word has a magnitude that is not smaller: at the next word the fraction, or at its end the exponent, goes up by one. -/
theorem wordMagnitude_mono : Monotone wordMagnitude := by
  refine monotone_nat_of_le_succ fun n => ?_
  unfold wordMagnitude
  split_ifs with hn hsucc hsucc
  · omega
  · have hmin : n + 1 = 2 ^ 23 := by omega
    rw [hmin]
    omega
  · omega
  · rcases Nat.lt_or_ge (n % 2 ^ 23 + 1) (2 ^ 23) with hsame | hcarry
    · rw [show (n + 1) / 2 ^ 23 = n / 2 ^ 23 by omega]
      exact Nat.mul_le_mul_right _ (by omega)
    · rw [show (n + 1) / 2 ^ 23 - 1 = n / 2 ^ 23 - 1 + 1 by omega, pow_succ' 2 (n / 2 ^ 23 - 1)]
      generalize 2 ^ (n / 2 ^ 23 - 1) = spacing
      calc (2 ^ 23 + n % 2 ^ 23) * spacing ≤ 2 ^ 24 * spacing := Nat.mul_le_mul_right _ (by omega)
        _ = 2 ^ 23 * (2 * spacing) := by ring
        _ ≤ (2 ^ 23 + (n + 1) % 2 ^ 23) * (2 * spacing) := Nat.mul_le_mul_right _ (by omega)

/-! ### The overflow of the scaled value -/

/-- The magnitudes of the last word before the overflow and of the first one, converted with either sign (R124). -/
theorem halfAddedUnits_around_overflow {offset : Nat} (hoffset : offset = 0 ∨ offset = 50) :
    halfAddedUnits .binary32Stepwise offset (wordMagnitude 0x7C23D709 : Nat) < 2 ^ 277 ∧
      -2 ^ 277 < halfAddedUnits .binary32Stepwise offset (-(wordMagnitude 0x7C23D709 : Nat)) ∧
      2 ^ 277 ≤ halfAddedUnits .binary32Stepwise offset (wordMagnitude 0x7C23D70A : Nat) ∧
      halfAddedUnits .binary32Stepwise offset (-(wordMagnitude 0x7C23D70A : Nat)) ≤ -2 ^ 277 := by
  rcases hoffset with rfl | rfl <;> decide +kernel

/-- The words that overflow are, for either sign, those from the first one on: the conversion is monotone. -/
theorem overflows_wordMagnitude_iff {offset : Nat} (hoffset : offset = 0 ∨ offset = 50) (negative : Bool) (n : Nat) :
    overflowsBy .binary32Stepwise (halfAddedUnits .binary32Stepwise offset (applySign negative (wordMagnitude n))) = true ↔
      0x7C23D70A ≤ n := by
  obtain ⟨hhigh, hlow, hover, hunder⟩ := halfAddedUnits_around_overflow hoffset
  have hmono := fun {v v' : Int} => halfAddedUnits_mono .binary32Stepwise offset (v := v) (v' := v')
  simp only [overflowsBy, decide_eq_true_eq]
  constructor
  · intro hoverflow
    by_contra hbefore
    have hmagnitude := wordMagnitude_mono (show n ≤ 0x7C23D709 by omega)
    have habs := applySign_natAbs negative (wordMagnitude n)
    have hle := hmono (show applySign negative (wordMagnitude n) ≤ (wordMagnitude 0x7C23D709 : Nat) by omega)
    have hge := hmono (show -(wordMagnitude 0x7C23D709 : Nat) ≤ applySign negative (wordMagnitude n) by omega)
    omega
  · intro hafter
    have hmagnitude := wordMagnitude_mono hafter
    cases negative with
    | false =>
      have hge := hmono (show ((wordMagnitude 0x7C23D70A : Nat) : Int) ≤ applySign false (wordMagnitude n) from
        Int.ofNat_le.2 hmagnitude)
      omega
    | true =>
      have hle := hmono (show applySign true (wordMagnitude n) ≤ -(wordMagnitude 0x7C23D70A : Nat) from
        Int.neg_le_neg (Int.ofNat_le.2 hmagnitude))
      omega

/-- Settles O28: a finite word converts by its steps, and the other words have exponent 255. -/
theorem scaledValueOverflowsFromItsFirstWord : Obligations.ScaledValueOverflowsFromItsFirstWord := by
  refine fun w offset hoffset => ⟨fun hfinite => ?_, fun hnot => ?_⟩
  · have hw := f32_of_lt hfinite
    refine ⟨?_, ?_⟩
    · rw [fx_of_finite hw, ← overflows_wordMagnitude_iff hoffset (signBit w)]
      simp
    · rw [fx_of_finite hw]
      simp [overflowsBy]
  · have hexp : exponentField w = 255 := by
      rw [exponentField_eq]
      omega
    exact ⟨fx_of_exponent_255 hexp _ offset, fx_of_exponent_255 hexp _ offset⟩

/-! ### The range of signed 16 bits -/

/-- The eight conversions of R132: the last word of each range and the one after it. -/
theorem fx_boundary_words (numerics : Numerics) :
    fx numerics 0x438AD666#32 50 = .integer 32767 ∧ fx numerics 0x438AD667#32 50 = .integer 32768 ∧
      fx numerics 0xC3BCD8F5#32 50 = .integer (-32768) ∧ fx numerics 0xC3BCD8F6#32 50 = .integer (-32769) ∧
      fx numerics 0x43A3D666#32 0 = .integer 32767 ∧ fx numerics 0x43A3D667#32 0 = .integer 32768 ∧
      fx numerics 0xC3A3D8F5#32 0 = .integer (-32768) ∧ fx numerics 0xC3A3D8F6#32 0 = .integer (-32769) := by
  cases numerics <;> decide +kernel

/-- Among the positive words the range ends where the integer passes 32767, since the conversion is monotone. -/
theorem inRange_positive_iff {numerics : Numerics} {offset : Nat} {last next w : Single}
    (hzero : 0 ≤ convertedInteger numerics offset 0) (hlast : fx numerics last offset = .integer 32767)
    (hnext : fx numerics next offset = .integer 32768) (hsucc : next.toNat = last.toNat + 1)
    (hfinite : next.toNat < 0x7F800000) (hw : w.toNat < 0x7F800000) :
    (fx numerics w offset).inRange = true ↔ w.toNat ≤ last.toNat := by
  have hlastInt := convertedInteger_of_fx (f32_of_positive (by omega)) hlast
  have hnextInt := convertedInteger_of_fx (f32_of_positive hfinite) hnext
  have hmono := fun {m n : Nat} (h : m ≤ n) =>
    convertedInteger_mono numerics offset (Int.ofNat_le.2 (wordMagnitude_mono h))
  have hnonneg := convertedInteger_mono numerics offset (Int.natCast_nonneg (wordMagnitude w.toNat))
  rw [fx_inRange_iff (f32_of_positive hw)]
  constructor
  · rintro ⟨-, hle⟩
    by_contra hafter
    have hge := hmono (show next.toNat ≤ w.toNat by omega)
    omega
  · intro hbefore
    have hle := hmono hbefore
    omega

/-- Among the negative words it ends where the integer passes -32768. -/
theorem inRange_negative_iff {numerics : Numerics} {offset : Nat} {last next w : Single}
    (hzero : convertedInteger numerics offset 0 ≤ 32767) (hlast : fx numerics last offset = .integer (-32768))
    (hnext : fx numerics next offset = .integer (-32769)) (hsucc : next.toNat = last.toNat + 1)
    (hnegative : 0x80000000 ≤ last.toNat) (hfinite : next.toNat < 0xFF800000) (hlow : 0x80000000 ≤ w.toNat)
    (hhigh : w.toNat < 0xFF800000) : (fx numerics w offset).inRange = true ↔ w.toNat ≤ last.toNat := by
  have hlastInt := convertedInteger_of_fx (f32_of_negative hnegative (by omega)) hlast
  have hnextInt := convertedInteger_of_fx (f32_of_negative (by omega) hfinite) hnext
  have hanti := fun {m n : Nat} (h : m ≤ n) =>
    convertedInteger_mono numerics offset (Int.neg_le_neg (Int.ofNat_le.2 (wordMagnitude_mono h)))
  have hnonpos := convertedInteger_mono numerics offset
    (Int.neg_nonpos_of_nonneg (Int.natCast_nonneg (wordMagnitude (w.toNat - 2 ^ 31))))
  rw [fx_inRange_iff (f32_of_negative hlow hhigh)]
  constructor
  · rintro ⟨hge, -⟩
    by_contra hafter
    have hle := hanti (show next.toNat - 2 ^ 31 ≤ w.toNat - 2 ^ 31 by omega)
    omega
  · intro hbefore
    have hge := hanti (show w.toNat - 2 ^ 31 ≤ last.toNat - 2 ^ 31 by omega)
    omega

/-- Settles O32, by the conversions of the boundary words. -/
theorem rangeEndsAtTheBoundaryWords : Obligations.RangeEndsAtTheBoundaryWords := by
  intro numerics
  obtain ⟨hlast50, hnext50, hlow50, hbelow50, hlast0, hnext0, hlow0, hbelow0⟩ := fx_boundary_words numerics
  obtain ⟨hzero50, hzero0⟩ := convertedInteger_of_tiny numerics (v := 0) (by decide)
  exact ⟨fun w => inRange_positive_iff (by omega) hlast50 hnext50 (by decide) (by decide),
    fun w => inRange_negative_iff (by omega) hlow50 hbelow50 (by decide) (by decide) (by decide),
    fun w => inRange_positive_iff (by omega) hlast0 hnext0 (by decide) (by decide),
    fun w => inRange_negative_iff (by omega) hlow0 hbelow0 (by decide) (by decide) (by decide),
    fx_boundary_words numerics⟩

end Sys2Proof.Machine
end

section
/-! The round trip through the stored pattern (R133): the errors of the three steps and of the truncation together. -/

namespace Sys2Proof.Machine

/-- Up to 327.66 above the offset the integer is within 1 of the scaled value: one half from the truncation, and three
rounding errors of at most 2^-24 (R133). -/
theorem convertedInteger_error {numerics : Numerics} {offset : Nat} {v : Int} (hlow : 0 ≤ v + offset * unitsPerOne)
    (hhigh : 100 * (v + offset * unitsPerOne) ≤ 32766 * 2 ^ 149) :
    0 ≤ convertedInteger numerics offset v ∧ convertedInteger numerics offset v ≤ 32767 ∧
      (convertedInteger numerics offset v * 2 ^ 149 - 100 * (v + offset * unitsPerOne)).natAbs ≤ 2 ^ 149 := by
  have hoffset := roundedBy_error numerics (v + offset * unitsPerOne)
  have hscaled := roundedBy_error numerics (offsetUnits numerics offset v * Config.scale)
  have hadded := roundedBy_error numerics (scaledUnits numerics offset v + unitsPerOne / 2)
  rw [← offsetUnits] at hoffset
  rw [← scaledUnits, Config.scale] at hscaled
  rw [← halfAddedUnits, half_unitsPerOne_eq] at hadded
  have hnonneg : 0 ≤ halfAddedUnits numerics offset v := by omega
  have htrunc : convertedInteger numerics offset v = halfAddedUnits numerics offset v / 2 ^ 149 := by
    rw [convertedInteger, truncUnits, Int.tdiv_eq_ediv_of_nonneg hnonneg, unitsPerOne_eq]
  omega

/-- A quantity in that interval converts, and its pattern is decoded to within one hundredth of it (R71, R133). -/
theorem roundTrip_of_bounds {numerics : Numerics} {offset : Nat} {w : Single} {u : Int} (hw : f32 w = .finite u)
    (hlow : 0 ≤ u + offset * unitsPerOne) (hhigh : 100 * (u + offset * unitsPerOne) ≤ 32766 * 2 ^ 149) :
    ∃ i, fx numerics w offset = .integer i ∧ |inverseScale (u16 i) offset - unitsValue u| ≤ 1 / 100 := by
  obtain ⟨hnonneg, hle, herror⟩ := convertedInteger_error (numerics := numerics) hlow hhigh
  refine ⟨_, fx_of_small hw (by omega) hle, ?_⟩
  rw [inverseScale, s16_u16 (by omega) hle, Config.scale]
  generalize convertedInteger numerics offset u = i at herror
  rw [unitsPerOne_eq] at herror
  have hdifference : (i : ℚ) / (100 : Nat) - offset - unitsValue u =
      ((i * 2 ^ 149 - 100 * (u + offset * 2 ^ 149) : Int) : ℚ) / (100 * 2 ^ 149) := by
    rw [unitsValue]
    push_cast
    ring
  have hcast : |((i * 2 ^ 149 - 100 * (u + offset * 2 ^ 149) : Int) : ℚ)| ≤ 2 ^ 149 := by
    rw [← Int.cast_abs, Int.abs_eq_natAbs]
    exact_mod_cast herror
  rw [hdifference, abs_div, abs_of_pos (show (0 : ℚ) < 100 * 2 ^ 149 by norm_num), div_le_iff₀ (by norm_num)]
  exact hcast.trans_eq (by ring)

/-- A bound from below by an integer, in units. -/
theorem intCast_le_unitsValue_iff (k u : Int) : (k : ℚ) ≤ unitsValue u ↔ k * 2 ^ 149 ≤ u := by
  rw [unitsValue, le_div_iff₀ (by norm_num)]
  exact_mod_cast Iff.rfl

/-- A bound from above in hundredths, in units. -/
theorem unitsValue_le_hundredths_iff (k u : Int) : unitsValue u ≤ (k : ℚ) / 100 ↔ 100 * u ≤ k * 2 ^ 149 := by
  rw [unitsValue, div_le_div_iff₀ (by norm_num) (by norm_num), mul_comm (u : ℚ)]
  exact_mod_cast Iff.rfl

/-- The word of -0.0149: its scaled value is just above -1.5, and converts to 0 (R128). -/
theorem fx_just_above_minus_one_and_a_half (numerics : Numerics) :
    fx numerics 0xBC741F21#32 0 = .integer 0 ∧ f32 0xBC741F21#32 = .finite (-(0xF41F21 * 2 ^ 119)) := by
  cases numerics <;> decide +kernel

/-- Settles O33, by the bounds of each interval in units, and the one word by its value. -/
theorem encodedQuantitiesRoundTripWithinAHundredth : Obligations.EncodedQuantitiesRoundTripWithinAHundredth := by
  refine fun numerics => ⟨fun w u hw => ⟨fun hlow hhigh => ?_, fun hlow hhigh => ?_⟩, ?_⟩
  · have hlow' := (intCast_le_unitsValue_iff (-50) u).1 (by exact_mod_cast hlow)
    have hhigh' := (unitsValue_le_hundredths_iff 27766 u).1 (by rwa [Int.cast_ofNat])
    apply roundTrip_of_bounds hw <;> rw [unitsPerOne_eq] <;> omega
  · have hlow' := (unitsValue_nonneg_iff u).1 hlow
    have hhigh' := (unitsValue_le_hundredths_iff 32766 u).1 (by rwa [Int.cast_ofNat])
    apply roundTrip_of_bounds hw <;> rw [unitsPerOne_eq] <;> omega
  · obtain ⟨hfx, hw⟩ := fx_just_above_minus_one_and_a_half numerics
    refine ⟨_, _, hfx, hw, ?_⟩
    rw [inverseScale, s16_u16 (by decide) (by decide), unitsValue, Config.scale]
    norm_num [abs_of_pos]

end Sys2Proof.Machine
end

section
/-! One SENDBIT after another: where the second one rises, by the gap between them and by how far the clock is from its top (R147, R148,
R150 to R152). -/

namespace Sys2Proof.Machine

/-! ### When an operation rises -/

/-- Entered by its deadline, an operation rises at the deadline (R147). -/
theorem firstRise_of_in_time {s : State} (h : s.now ≤ s.nextEdge) : firstRise s = s.nextEdge := laterOf_of_le h

/-- Entered at or past its deadline, it rises at its entry (R148). -/
theorem firstRise_of_late {s : State} (h : s.nextEdge ≤ s.now) : firstRise s = s.now := laterOf_of_ge h

/-- With no deadline pending, an operation rises at its entry (R151). -/
theorem firstRise_of_no_deadline {s : State} (h : s.nextEdge = 0) : firstRise s = s.now := by
  rw [firstRise, h, laterOf_zero]

/-- Entered `g` after the exit of a SENDBIT, the next operation rises at the deadline where the pulse and the gap leave time for it,
and otherwise at its entry (R147, R148). -/
theorem firstRise_after_gap {c : Config} (hlat : c.lat = Latency.zero) (v : Bool) {g : Nat} {s : State}
    (hclock : clockHolds (firstRise s) (c.total + pulseWidth c v + g)) :
    firstRise ((sendBit c v s).delay g) =
      if pulseWidth c v + g ≤ c.total then firstRise s + us c.total else firstRise s + us (pulseWidth c v + g) := by
  have hfits : (firstRise s).toNat + (c.total + pulseWidth c v + g) < 2 ^ 64 := hclock
  have hedge : ((sendBit c v s).delay g).nextEdge = firstRise s + us c.total := by rw [sendBit_eq c hlat]; rfl
  have hnow : ((sendBit c v s).delay g).now = firstRise s + us (pulseWidth c v + g) := by
    rw [State.delay_now, sendBit_eq c hlat, us_add, BitVec.add_assoc]
  have hedge_nat : (firstRise s + us c.total).toNat = (firstRise s).toNat + c.total := add_us_toNat (by omega)
  have hnow_nat : (firstRise s + us (pulseWidth c v + g)).toNat = (firstRise s).toNat + (pulseWidth c v + g) :=
    add_us_toNat (by omega)
  split
  · next hin => rw [← hedge]; exact firstRise_of_in_time (by rw [hnow, hedge, BitVec.le_def]; omega)
  · next hlate => rw [← hnow]; exact firstRise_of_late (by rw [hnow, hedge, BitVec.le_def]; omega)

/-- Where the deadline passes the top of the clock, it is a time long past (R150). -/
theorem sendBit_nextEdge_of_wrap {c : Config} (hlat : c.lat = Latency.zero) (htotal : c.total < 2 ^ 64) (v : Bool) {s : State}
    (hwraps : 2 ^ 64 ≤ (firstRise s).toNat + c.total) :
    (sendBit c v s).nextEdge.toNat = (firstRise s).toNat + c.total - 2 ^ 64 := by
  have hlt := (firstRise s).isLt
  rw [sendBit_eq c hlat, us, BitVec.toNat_add, BitVec.toNat_ofNat]
  omega

/-- An operation entered at the exit of such a SENDBIT rises at its entry (R150). -/
theorem firstRise_of_wrapped_deadline {c : Config} (hlat : c.lat = Latency.zero) (htotal : c.total < 2 ^ 64) (v : Bool)
    {s : State} (hwraps : 2 ^ 64 ≤ (firstRise s).toNat + c.total) (hpulse : (firstRise s).toNat + pulseWidth c v < 2 ^ 64) :
    firstRise (sendBit c v s) = (sendBit c v s).now := by
  have hnow : (sendBit c v s).now.toNat = (firstRise s).toNat + pulseWidth c v := by
    rw [← add_us_toNat hpulse, sendBit_eq c hlat]
  have hedge := sendBit_nextEdge_of_wrap hlat htotal v hwraps
  exact firstRise_of_late (by rw [BitVec.le_def]; omega)

/-! ### The edges from the line LOW -/

/-- A released block runs SENDBIT (R145, R210). -/
theorem exec_sendbit (v : Bool) {s : State} (hrst : s.rst = false) :
    exec (.sendbit v) s = .next (sendBit Config.hardware v s) := exec_micro rfl hrst

/-- SENDBIT with its own latencies, all fields at once (R152). -/
theorem sendBitWith_eq (c : Config) (l : Latency) (v : Bool) (s : State) :
    sendBitWith c l v s =
      { s with
        now := firstRise s + us l.dw + us l.ds + us (pulseWidth c v) + us l.dd
        line := false
        nextEdge := firstRise s + us l.dw + us l.ds + us c.total
        log :=
          { time := firstRise s + us l.dw + us l.ds + us (pulseWidth c v) + us l.dd, port := .line, level := false } ::
            logChange .line s.line true (firstRise s + us l.dw) s.log } := by
  simp only [sendBitWith, closePulse_eq, openPulse_eq, logChange_fall, firstRise]

/-- From the line LOW, SENDBIT logs the two edges of its pulse (R145). -/
theorem sendBit_log_of_line_low {c : Config} (hlat : c.lat = Latency.zero) (v : Bool) {s : State} (hline : s.line = false) :
    (sendBit c v s).log =
      { time := firstRise s + us (pulseWidth c v), port := .line, level := false } ::
        { time := firstRise s, port := .line, level := true } :: s.log := by
  rw [sendBit_of_line_low hlat v hline]
  rfl

/-- The marker without latencies: its hold is past the deadline of its own rising edge, so that the final bit goes on at once and the
line stays HIGH until that bit's falling edge (R176). -/
theorem eofMark_eq {c : Config} (hlat : c.lat = Latency.zero) {s : State} (hclock : clockHolds (firstRise s) c.eofHold) :
    eofMark c s =
      { s with
        now := firstRise s + us (markerWidth c)
        line := false
        nextEdge := firstRise s + us (c.eofHold + c.total)
        log :=
          { time := firstRise s + us (markerWidth c), port := .line, level := false } ::
            logChange .line s.line true (firstRise s) s.log } := by
  have hopen : holdMarker c (openMarker c s) =
      { s with
        now := firstRise s + us c.eofHold
        line := true
        nextEdge := firstRise s + us c.total
        log := logChange .line s.line true (firstRise s) s.log } := by
    simp [holdMarker, openMarker, openPulse_eq, State.delay, hlat, Latency.zero, firstRise]
  have hfits : (firstRise s).toNat + c.eofHold < 2 ^ 64 := hclock
  have htotal : c.total ≤ c.eofHold := Nat.le_mul_of_pos_left c.total Nat.two_pos
  have hrise : firstRise (holdMarker c (openMarker c s)) = firstRise s + us c.eofHold := by
    rw [hopen]
    exact firstRise_of_late (by rw [BitVec.le_def, add_us_toNat hfits, add_us_toNat (by omega)]; omega)
  rw [eofMark, closeMarker, sendBit_eq c hlat, hrise, hopen]
  simp [State.setLine, markerWidth, us_add, BitVec.add_assoc, pulseWidth]

/-- The edges of a SENDBIT or of the marker from the line LOW: it rises as soon as it may, and is over at its falling edge; a
SENDBIT leaves its deadline `TOTAL` after its rise (R145, R176). -/
theorem effect_pulse {i : Instr} (hi : i = .sendbit false ∨ i = .sendbit true ∨ i = .eofmark) {s : State}
    (hline : s.line = false) (hclock : clockHolds (firstRise s) 4000) :
    (effect i s).log =
        { time := (effect i s).now, port := .line, level := false } ::
          { time := firstRise s, port := .line, level := true } :: s.log ∧
      (i ≠ .eofmark → (effect i s).nextEdge = firstRise s + us 2000) := by
  have hbit (v : Bool) : (sendBit Config.hardware v s).log =
      { time := (sendBit Config.hardware v s).now, port := .line, level := false } ::
        { time := firstRise s, port := .line, level := true } :: s.log := by
    rw [sendBit_log_of_line_low Config.hardware_lat v hline, sendBit_hardware_eq]
  have hedge (v : Bool) : (sendBit Config.hardware v s).nextEdge = firstRise s + us 2000 := by rw [sendBit_hardware_eq]
  rcases hi with rfl | rfl | rfl
  · exact ⟨hbit false, fun _ => hedge false⟩
  · exact ⟨hbit true, fun _ => hedge true⟩
  · refine ⟨?_, fun hne => absurd rfl hne⟩
    rw [effect, eofMark_eq Config.hardware_lat hclock, hline, logChange_rise]

/-! ### The statements -/

/-- Settles O38: the fields of a SENDBIT with latencies, twice; entered in time, the second one rises at the first one's
deadline. -/
theorem latenciesAddToThePeriod : Obligations.LatenciesAddToThePeriod := by
  refine fun c l l' v v' s => ⟨sendBitWith_eq c l v s, fun hle => ?_⟩
  have hrise : firstRise ((sendBitWith c l v s).delay l.dg) = firstRise s + us l.dw + us l.ds + us c.total := by
    refine (firstRise_of_in_time ?_).trans (by rw [sendBitWith_eq]; rfl)
    rwa [sendBitWith_eq] at hle ⊢
  have hline : ((sendBitWith c l v s).delay l.dg).line = false := rfl
  have hperiod : firstRise s + us l.dw + us l.ds + us c.total + us l'.dw =
      firstRise s + us l.dw + us (c.total + l.ds + l'.dw) := by
    rw [us_add, us_add]
    ac_rfl
  rw [sendBitWith_eq c l' v', hrise, hline, logChange_rise, hperiod]
  rfl

/-- Settles O39: where the second operation rises is `firstRise_after_gap`, and what it does from there `effect_pulse`. -/
theorem gapIsCompensatedUpToTheDeadline : Obligations.GapIsCompensatedUpToTheDeadline := by
  intro v i g s hi hrst hclock w rise'
  have hfits : (firstRise s).toNat + (4000 + 1400 + 2000 + g) < 2 ^ 64 := hclock
  have hw : w ≤ 1400 := by cases v <;> decide
  have hsecond : firstRise ((sendBit Config.hardware v s).delay g) = rise' :=
    firstRise_after_gap Config.hardware_lat v (show _ < _ by rw [Config.hardware_total]; omega)
  have hlater : clockHolds (firstRise ((sendBit Config.hardware v s).delay g)) 4000 := by
    rw [hsecond, clockHolds]
    simp only [rise']
    split <;> rw [add_us_toNat (by omega)] <;> omega
  have hreleased : ((sendBit Config.hardware v s).delay g).rst = false := by
    rw [State.delay_rst, (sendBit_surroundings _ v s).rst_eq, hrst]
  have hmicro : i.issuedBy .sequencer = true := by rcases hi with rfl | rfl | rfl <;> rfl
  have hline : ((sendBit Config.hardware v s).delay g).line = false := by rw [State.delay_line, sendBit_line]
  obtain ⟨hlog, hedge⟩ := effect_pulse hi hline hlater
  rw [hsecond] at hlog hedge
  exact ⟨_, _, _, exec_sendbit v hrst, by rw [sendBit_hardware_eq], exec_micro hmicro hreleased, hlog, rfl, hedge⟩

/-- Settles O40: the wrapped deadline is smaller than the time at the exit, so that the second SENDBIT takes it as past. -/
theorem deadlineWrapsAtTheTopOfTheClock : Obligations.DeadlineWrapsAtTheTopOfTheClock := by
  intro v v' s hrst hwraps hpulse
  have hreleased : (sendBit Config.hardware v s).rst = false := (sendBit_surroundings _ v s).rst_eq.trans hrst
  refine ⟨_, _, exec_sendbit v hrst, sendBit_nextEdge_of_wrap Config.hardware_lat (by decide) v hwraps,
    exec_sendbit v' hreleased, ?_⟩
  rw [sendBit_log_of_line_low Config.hardware_lat v' (sendBit_line _ v s),
    firstRise_of_wrapped_deadline Config.hardware_lat (by decide) v hwraps hpulse]

/-- Settles O41: INIT and reset leave the line LOW and no deadline. -/
theorem firstBitAfterInitDoesNotWait : Obligations.FirstBitAfterInitDoesNotWait := by
  refine ⟨fun v s hbusy hrst => ?_, fun v now => ?_⟩
  · refine ⟨_, _, exec_command rfl hbusy hrst, exec_sendbit v hrst, ?_⟩
    rw [sendBit_log_of_line_low Config.hardware_lat v rfl, firstRise_of_no_deadline rfl]
  · refine ⟨_, exec_sendbit v rfl, ?_⟩
    rw [sendBit_log_of_line_low Config.hardware_lat v rfl, firstRise_of_no_deadline rfl]
    rfl

end Sys2Proof.Machine
end

section
/-! What the bit-clock changes and what it leaves alone: the timing primitives, one SENDBIT, and every micro-operation (R141 to
R146, R172, R176). -/

namespace Sys2Proof.Machine

/-- Settles O36: the later of two times and a sum without a wrap as numbers, and the two cases of the log. -/
theorem timingPrimitivesDoWhatTheySay : Obligations.TimingPrimitivesDoWhatTheySay := by
  refine fun s t d b => ⟨⟨rfl, laterOf_toNat s.now t⟩, ⟨rfl, fun hfits => add_us_toNat hfits⟩, ?_, fun hne => ?_⟩
  · rintro rfl
    rw [State.setLine, logChange_same]
  · rw [State.setLine, logChange, if_neg hne.symm]

/-- Settles O37: SENDBIT's fields are those of `sendBit_hardware_eq`, and it leaves the Frame alone. -/
theorem sendbitEmitsOnePulse : Obligations.SendbitEmitsOnePulse := by
  refine ⟨by decide, by decide, fun v s hrst => ?_⟩
  refine ⟨_, exec_sendbit v hrst, laterOf_toNat s.now s.nextEdge, ?_,
    State.readByte_congr (sendBit_surroundings Config.hardware v s).frame_eq⟩
  cases v <;> exact sendBit_hardware_eq _ s

@[refl] theorem SamePosition.refl (s : State) : SamePosition s s := ⟨rfl, rfl, rfl, rfl⟩

theorem microGap_position (c : Config) (s : State) : SamePosition s (microGap c s) := ⟨rfl, rfl, rfl, rfl⟩

theorem sendBits_position (c : Config) : ∀ (vs : List Bool) (s : State), SamePosition s (sendBits c vs s)
  | [], s => .refl s
  | [v], s => sendBit_position c v s
  | v :: v' :: vs, s =>
    (sendBit_position c v s).trans ((microGap_position c _).trans (sendBits_position c (v' :: vs) _))

/-- What neither the surroundings nor the sequencer hold is the bit-clock: the line, the deadline, the clock and the log. -/
theorem eq_withBitClock {s t : State} (h : SameSurroundings s t) (k : SamePosition s t) :
    t = { s with line := t.line, nextEdge := t.nextEdge, now := t.now, log := t.log } := by
  obtain ⟨hframe, herr, hrst, hresets, hhost, hbench, hdraws⟩ := h
  obtain ⟨hbusy, hslot, hsub, hsum⟩ := k
  simp only [← hframe, ← herr, ← hrst, ← hresets, ← hhost, ← hbench, ← hdraws, ← hbusy, ← hslot, ← hsub,
    ← hsum]

/-- A micro-operation leaves the surroundings and the sequencer alone (R146, R172, R176). -/
theorem effect_micro_frame {i : Instr} (hi : i.issuedBy .sequencer = true) (s : State) :
    SameSurroundings s (effect i s) ∧ SamePosition s (effect i s) := by
  cases i with
  | sendbit v => exact ⟨sendBit_surroundings _ v s, sendBit_position _ v s⟩
  | sendbyte b => exact ⟨sendByte_surroundings _ b s, sendBits_position _ (wireBits b) s⟩
  | eofmark => exact ⟨eofMark_surroundings _ s, eofMark_position _ s⟩
  | init | setaddr _ | settype _ | setdata _ _ _ | send => cases hi

/-- Settles O42: exec answers the micro-operation's effect, or under `rst` the same state. -/
theorem microOperationsTouchOnlyTheBitClock : Obligations.MicroOperationsTouchOnlyTheBitClock := by
  intro i s t hi hexec
  have hframe : SameSurroundings s t ∧ SamePosition s t := by
    rcases exec_cases i s with heq | heq <;> rw [heq] at hexec <;> cases hexec
    · exact effect_micro_frame hi s
    · exact ⟨.refl s, .refl s⟩
  obtain ⟨hsame, hposition⟩ := hframe
  exact ⟨eq_withBitClock hsame hposition, State.readByte_congr hsame.frame_eq⟩

end Sys2Proof.Machine
end

section
/-! The checksum as arithmetic on eight bits: the byte sum modulo 256 is the sum of the bytes as bytes, one term for each offset of the
Frame (R160, R161, R165), and `SUM` holds the byte sum at the end of a SEND (R162, R163). -/

namespace Sys2Proof.Machine

/-! ### The byte sum on eight bits -/

theorem Frame.bytes_eq_ofFn (f : Frame) : f.bytes = List.ofFn f.get := rfl

/-- The byte sum of a Frame lies in 0 to 2040 (R161). -/
theorem byteSum_frame_le (f : Frame) : byteSum f.bytes ≤ 2040 := byteSum_le f.bytes

theorem byteSum_frame_eq (f : Frame) :
    byteSum f.bytes =
      f.f0.toNat + f.f1.toNat + f.f2.toNat + f.f3.toNat + f.f4.toNat + f.f5.toNat + f.f6.toNat + f.f7.toNat := by
  simp [byteSum, Frame.bytes, Nat.add_assoc]

/-- The low eight bits of the unbounded sum are the bytes' own sum, which wraps (R161). -/
theorem ofNat_byteSum (bs : List Byte) : BitVec.ofNat 8 (byteSum bs) = bs.sum := by
  induction bs with
  | nil => rfl
  | cons b bs ih => rw [byteSum_cons, List.sum_cons, BitVec.ofNat_add, BitVec.ofNat_toNat, BitVec.setWidth_eq, ih]

/-- The checksum byte as a number (R160). -/
theorem frameChecksum_toNat (f : Frame) : (frameChecksum f).toNat = (byteSum f.bytes + 5) % 256 := by
  simp [frameChecksum, Config.chkBias, Config.chkMod]

theorem frameChecksum_eq_bytes_sum (f : Frame) : frameChecksum f = f.bytes.sum + 5#8 := by
  have hlow : (byteSum f.bytes + 5) % 256 = (BitVec.ofNat 8 (byteSum f.bytes) + 5#8).toNat := by simp
  rw [← ofNat_byteSum]
  exact BitVec.eq_of_toNat_eq ((frameChecksum_toNat f).trans hlow)

/-- The checksum with one term for each offset, so that laws of finite sums apply. -/
theorem frameChecksum_eq_sum_get (f : Frame) : frameChecksum f = (∑ i, f.get i) + 5#8 := by
  rw [frameChecksum_eq_bytes_sum, Frame.bytes_eq_ofFn, List.sum_ofFn]

/-! ### Changes of the Frame -/

/-- The bytes after one is added to: the old ones plus a row that is 0 but for that place. -/
theorem Frame.get_set_add (f : Frame) (i : Fin 8) (d : Byte) : (f.set i (f.get i + d)).get = f.get + Pi.single i d := by
  funext k
  obtain rfl | hk := eq_or_ne k i
  · simp
  · simp [hk]

/-- The bytes after two are swapped: the old ones read through the transposition. -/
theorem Frame.get_swap (f : Frame) (i j : Fin 8) (k : Fin 8) :
    ((f.set i (f.get j)).set j (f.get i)).get k = f.get (Equiv.swap i j k) := by
  obtain rfl | hj := eq_or_ne k j
  · simp
  · obtain rfl | hi := eq_or_ne k i
    · simp [hj]
    · simp [hi, hj, Equiv.swap_apply_of_ne_of_ne]

/-- Adding to one byte adds to the checksum (R165 (c)). -/
theorem frameChecksum_set_add (f : Frame) (i : Fin 8) (d : Byte) :
    frameChecksum (f.set i (f.get i + d)) = frameChecksum f + d := by
  have hsum : ∑ k, (f.set i (f.get i + d)).get k = (∑ k, f.get k) + d := by
    simp [Frame.get_set_add, Finset.sum_add_distrib]
  rw [frameChecksum_eq_sum_get, frameChecksum_eq_sum_get, hsum, add_right_comm]

/-- A transposition reorders the terms of the sum and is not detected (R165 (d)). -/
theorem frameChecksum_swap (f : Frame) (i j : Fin 8) :
    frameChecksum ((f.set i (f.get j)).set j (f.get i)) = frameChecksum f := by
  have hsum : ∑ k, ((f.set i (f.get j)).set j (f.get i)).get k = ∑ k, f.get k := by
    simp only [Frame.get_swap]
    exact Equiv.sum_comp (Equiv.swap i j) f.get
  rw [frameChecksum_eq_sum_get, frameChecksum_eq_sum_get, hsum]

/-- The checksum is 0 where the bias completes a multiple of 256 (R165 (e)). -/
theorem frameChecksum_eq_zero_iff (f : Frame) : frameChecksum f = 0#8 ↔ byteSum f.bytes % 256 = 251 := by
  rw [← BitVec.toNat_inj, frameChecksum_toNat, BitVec.toNat_ofNat]
  omega

/-- Settles O57: the three Frames evaluated, then the checksum as a sum over the offsets and as a number. -/
theorem checksumConsequences : Obligations.ChecksumConsequences :=
  ⟨by decide, by decide, by decide, frameChecksum_set_add, frameChecksum_swap, frameChecksum_eq_zero_iff⟩

/-- Settles O58: the running sum of eight bits is the bytes' own sum, which is the byte sum modulo 256. -/
theorem checksumNeedsOnlyEightBits : Obligations.ChecksumNeedsOnlyEightBits := by
  intro f
  have hle := byteSum_frame_le f
  refine ⟨?_, hle, by omega, ?_⟩
  · rw [frameChecksum_toNat, byteSum_frame_eq]
  · rw [frameChecksum_eq_bytes_sum, List.sum_eq_foldl]
    rfl

/-! ### `SUM` at the end of a SEND -/

/-- With no reset to come a SEND leaves the byte sum of the Frame in `SUM` (R162). -/
theorem sendFrame_sum {c : Config} (hc : c.wellFormed = true) {s : State} (hresets : s.resets = []) :
    (sendFrame c s).sum = BitVec.ofNat 11 (byteSum s.frame.bytes) := by
  rw [sendIsItsMicroProgram c s hc hresets]
  rfl

/-- Settles O59: the SEND is accepted and runs to its exit, where `SUM` holds the byte sum, which eleven bits hold. -/
theorem sumFormsTheChecksumOfTheFrame : Obligations.SumFormsTheChecksumOfTheFrame := by
  intro s t hbusy hrst hresets hexec
  obtain rfl : sendFrame Config.hardware s = t := by
    rw [exec_command rfl hbusy hrst] at hexec
    exact Host.Outcome.next.inj hexec
  have hsum : (sendFrame Config.hardware s).sum.toNat = byteSum s.frame.bytes := by
    have hle := byteSum_frame_le s.frame
    rw [sendFrame_sum Config.hardware_wellFormed hresets, BitVec.toNat_ofNat]
    omega
  exact ⟨hsum, formChecksum_of_sum s.frame _ hsum⟩

end Sys2Proof.Machine
end

section
/-! SENDBYTE and EOFMARK as operations of a block: their labels, and what exec answers for them (R93, R172, R176). -/

namespace Sys2Proof.Machine

theorem enterMicro_of_held {s : State} (h : s.rst = true) (f : State → State) : enterMicro s f = .next s := by
  simp [enterMicro, h]

/-- A released block runs SENDBITs one after another as one row (R172, R210). -/
theorem execAll_sendbit_of_released (v : Bool) (vs : List Bool) {s : State} (hrst : s.rst = false) :
    execAll ((v :: vs).map .sendbit) s = .next (sendBits Config.hardware (v :: vs) s) := by
  induction vs generalizing v s with
  | nil => simp only [List.map_cons, List.map_nil, execAll, exec_sendbit v hrst, sendBits]
  | cons v' vs ih =>
    have hreleased : (sendBit Config.hardware v s).rst = false := (sendBit_surroundings _ v s).rst_eq.trans hrst
    rw [List.map_cons, execAll, exec_sendbit v hrst, sendBits_cons_cons, microGap_of_no_latency Config.hardware_lat]
    exact ih v' hreleased

/-- A block under `rst` runs none of them (R210). -/
theorem execAll_sendbit_of_held (vs : List Bool) {s : State} (hrst : s.rst = true) :
    execAll (vs.map .sendbit) s = .next s := by
  induction vs with
  | nil => rfl
  | cons v vs ih =>
    have hheld : exec (.sendbit v) s = .next s := enterMicro_of_held hrst _
    rw [List.map_cons, execAll, hheld]
    exact ih

/-- Settles O43: the label is the encoder's, and both sides are the row of the byte's nine bits, or under `rst` the same state. -/
theorem sendbyteIsNineSendbits : Obligations.SendbyteIsNineSendbits := by
  intro b s
  refine ⟨decodeOfEncodeGivesTheOperation (.sendbyte b), ?_⟩
  cases hrst : s.rst with
  | false =>
    have hbyte : exec (.sendbyte b) s = .next (sendByte Config.hardware b s) := exec_micro rfl hrst
    exact hbyte.trans (execAll_sendbit_of_released _ _ hrst).symm
  | true =>
    have hbyte : exec (.sendbyte b) s = .next s := enterMicro_of_held hrst _
    exact hbyte.trans (execAll_sendbit_of_held (wireBits b) hrst).symm

/-- Settles O45: EOFMARK is accepted, its fields are those of `eofMark_eq`, and it leaves the Frame alone. -/
theorem eofmarkEmitsTheMarker : Obligations.EofmarkEmitsTheMarker := by
  refine ⟨by decide, fun s hrst hclock => ?_⟩
  have hexec : exec .eofmark s = .next (eofMark Config.hardware s) := exec_micro rfl hrst
  have hhold : clockHolds (firstRise s) Config.hardware.eofHold := by
    rw [Config.hardware_eofHold]
    exact lt_trans (by omega) hclock
  exact ⟨_, hexec, eofMark_eq Config.hardware_lat hhold, State.readByte_congr (eofMark_surroundings _ s).frame_eq⟩

end Sys2Proof.Machine
end

section
/-! A SEND with a pulse on `rst` to come that its exit is before: the sequencer never sees the pulse, so that the SEND is the one with
no pulse to come (R198, R211; log 6). -/

namespace Sys2Proof.Machine

/-- The pulses to come on `rst`, replaced. -/
def State.setResets (r : List ResetPulse) (s : State) : State := { s with resets := r }

theorem State.setResets_of_eq {s : State} {r : List ResetPulse} (h : s.resets = r) (r' : List ResetPulse) :
    (s.setResets r').setResets r = s := by
  subst h
  rfl

/-- A reset that is not due by a time is not due before it. -/
theorem resetDue_of_le {s : State} {t u : Time} (htu : t ≤ u) (hu : s.resetDue u = false) : s.resetDue t = false := by
  cases hresets : s.resets with
  | nil => exact resetDue_of_nil hresets t
  | cons p rest =>
    rw [resetDue_cons hresets, decide_eq_false_iff_not, BitVec.le_def] at hu ⊢
    rw [BitVec.le_def] at htu
    omega

theorem resetDue_congr {s t : State} (h : t.resets = s.resets) (u : Time) : t.resetDue u = s.resetDue u := by
  simp only [State.resetDue, h]

/-- Both sub-steps of an ordinary slot at once, where no reset is due by their ends. -/
theorem runSequencer_slot_of_not_due {c : Config} (hc : c.wellFormed = true) {s : State} (hbusy : s.busy = true)
    (hwait : s.subStep = .wait) (hslot : s.slot.toNat + 1 < c.nSlots) (hrise : s.resetDue (sequencerStep c s).now = false)
    (hfall : s.resetDue (afterSlot c s).now = false) (n : Nat) :
    runSequencer c (n + 2) s = runSequencer c n (afterSlot c s) := by
  have hsecond : sequencerStep c (sequencerStep c s) = afterSlot c s := ordinary_slot_eq hc hwait hslot
  have hresets := (sequencerStep_surroundings c s).resets_eq
  obtain ⟨hbusy', -, -⟩ := sequencerStep_wait_position c hwait
  rw [runSequencer_succ c _ s hbusy hrise,
    runSequencer_succ c _ _ (hbusy'.trans hbusy) (by rw [hsecond, resetDue_congr hresets, hfall]), hsecond]

/-- After its rising edge the last slot holds (R26, R176). -/
theorem sequencerStep_last_slot_subStep {c : Config} (hc : c.wellFormed = true) {s : State} (hwait : s.subStep = .wait)
    (hslot : s.slot.toNat + 1 = c.nSlots) : (sequencerStep c s).subStep = .eofHold := by
  obtain ⟨-, -, hsub⟩ := sequencerStep_wait_position c hwait
  rw [hsub, afterRise_eq hc, if_pos hslot.ge]

/-- The three sub-steps of the last slot at once, where no reset is due by their ends. -/
theorem runSequencer_last_slot_of_not_due {c : Config} (hc : c.wellFormed = true) {s : State} (hbusy : s.busy = true)
    (hwait : s.subStep = .wait) (hslot : s.slot.toNat + 1 = c.nSlots) (hrise : s.resetDue (sequencerStep c s).now = false)
    (hhold : s.resetDue (sequencerStep c (sequencerStep c s)).now = false) (hfall : s.resetDue (eofMark c s).now = false) :
    runSequencer c 3 s = finishSend (eofMark c s) := by
  obtain ⟨hbusy', -, -⟩ := sequencerStep_wait_position c hwait
  obtain ⟨hbusy'', -, -⟩ := sequencerStep_eofHold_position c (sequencerStep_last_slot_subStep hc hwait hslot)
  have hrunning := hbusy'.trans hbusy
  have hresets := (sequencerStep_surroundings c s).resets_eq
  have hresets' := (sequencerStep_surroundings c (sequencerStep c s)).resets_eq.trans hresets
  have hthird := marker_slot_eq hc hwait hslot
  rw [runSequencer_succ c _ s hbusy hrise, runSequencer_succ c _ _ hrunning (by rw [resetDue_congr hresets, hhold]),
    runSequencer_succ c _ _ (hbusy''.trans hrunning) (by rw [hthird, resetDue_congr hresets']; exact hfall), hthird]
  rfl

/-! ### The ends of the sub-steps without latencies -/

/-- The first sub-step of a slot ends at its rising edge (R145). -/
theorem sequencerStep_wait_now {c : Config} (hlat : c.lat = Latency.zero) {s : State} (hwait : s.subStep = .wait) :
    (sequencerStep c s).now = firstRise s := by
  obtain ⟨x, henter⟩ := enterSlot_eq_setSum c s
  rw [sequencerStep_of_wait c hwait, henter]
  simp [openPulse_eq, firstRise, hlat, Latency.zero]

/-- The hold of the marker ends `2 × TOTAL` after its rising edge (R176). -/
theorem sequencerStep_hold_now {c : Config} (hc : c.wellFormed = true) (hlat : c.lat = Latency.zero) {s : State}
    (hwait : s.subStep = .wait) (hslot : s.slot.toNat + 1 = c.nSlots) :
    (sequencerStep c (sequencerStep c s)).now = firstRise s + us c.eofHold := by
  rw [sequencerStep_of_eofHold c (sequencerStep_last_slot_subStep hc hwait hslot), State.setPosition_now, holdMarker,
    State.delay_now, sequencerStep_wait_now hlat hwait]

/-- An ordinary slot ends at its falling edge (R145). -/
theorem afterSlot_now {c : Config} (hlat : c.lat = Latency.zero) (s : State) :
    (afterSlot c s).now = firstRise s + us (pulseWidth c (slotBit c s)) := by
  obtain ⟨x, heq⟩ := afterSlot_eq c s
  rw [heq, gappedBit, microGap_of_no_latency hlat, sendBit_eq c hlat]
  rfl

/-- The slot after it rises `TOTAL` after it (R75). -/
theorem firstRise_afterSlot {c : Config} (hlat : c.lat = Latency.zero) (hshort : c.short ≤ c.total) {s : State}
    (hclock : clockHolds (firstRise s) c.total) : firstRise (afterSlot c s) = firstRise s + us c.total := by
  obtain ⟨x, heq⟩ := afterSlot_eq c s
  rw [← firstRise_sendBit hlat hshort (slotBit c s) hclock, heq, gappedBit, microGap_of_no_latency hlat]
  rfl

/-! ### The rest of a SEND -/

/-- What a well-formed configuration grants the widths (R11). -/
theorem short_le_total_of_wellFormed {c : Config} (hc : c.wellFormed = true) : c.short ≤ c.total := by
  simp only [Config.wellFormed, Bool.and_eq_true, decide_eq_true_eq] at hc
  obtain ⟨⟨⟨⟨-, hshort⟩, -⟩, -⟩, -⟩ := hc
  exact hshort.le

/-- A SEND about to enter a slot, `k` ordinary slots before the marker, that exits before the next reset and before the top of the
clock (R150, R198). -/
structure State.ExitsInTime (c : Config) (k : Nat) (s : State) : Prop where
  running : s.busy = true
  at_wait : s.subStep = .wait
  slots_left : s.slot.toNat + k + 1 = c.nSlots
  clock : clockHolds (firstRise s) (k * c.total + c.eofHold + c.total)
  no_reset : s.resetDue (firstRise s + us (k * c.total + markerWidth c)) = false

section
variable {c : Config} {k : Nat} {s : State}

/-- No reset is due before the exit. -/
theorem State.ExitsInTime.not_due (hc : c.wellFormed = true) (h : s.ExitsInTime c k) {n : Nat}
    (hn : n ≤ k * c.total + markerWidth c) : s.resetDue (firstRise s + us n) = false := by
  have hshort := short_le_total_of_wellFormed hc
  have hfits : (firstRise s).toNat + (k * c.total + c.eofHold + c.total) < 2 ^ 64 := h.clock
  have hwidth : markerWidth c = c.eofHold + c.short := rfl
  refine resetDue_of_le ?_ h.no_reset
  rw [BitVec.le_def, add_us_toNat (by omega), add_us_toNat (by omega)]
  omega

theorem State.ExitsInTime.not_due_at_rise (hc : c.wellFormed = true) (h : s.ExitsInTime c k) :
    s.resetDue (firstRise s) = false := by
  simpa using h.not_due hc (Nat.zero_le _)

/-- The next slot of such a SEND. -/
theorem State.ExitsInTime.afterSlot (hc : c.wellFormed = true) (hlat : c.lat = Latency.zero) (h : s.ExitsInTime c (k + 1)) :
    (afterSlot c s).ExitsInTime c k := by
  obtain ⟨-, hslots⟩ := slots_of_wellFormed hc
  have hleft := h.slots_left
  have hfits : (firstRise s).toNat + ((k + 1) * c.total + c.eofHold + c.total) < 2 ^ 64 := h.clock
  rw [Nat.succ_mul] at hfits
  have hone : (firstRise s).toNat + c.total < 2 ^ 64 := by omega
  have hrise := firstRise_afterSlot hlat (short_le_total_of_wellFormed hc) hone
  have hslot : (Machine.afterSlot c s).slot.toNat = s.slot.toNat + 1 := slot_add_one_toNat hslots (by omega)
  have hexit : firstRise s + us c.total + us (k * c.total + markerWidth c) =
      firstRise s + us ((k + 1) * c.total + markerWidth c) := by
    rw [BitVec.add_assoc, ← us_add]
    congr 2
    ring
  refine ⟨(afterSlot_busy c s).trans h.running, rfl, by omega, ?_, ?_⟩
  · rw [clockHolds, hrise, add_us_toNat hone]
    omega
  · rw [hrise, hexit, resetDue_congr (afterSlot_surroundings c s).resets_eq]
    exact h.no_reset

/-- Its sub-steps of an ordinary slot are all taken. -/
theorem State.ExitsInTime.runSequencer_slot (hc : c.wellFormed = true) (hlat : c.lat = Latency.zero) (h : s.ExitsInTime c (k + 1)) :
    runSequencer c (2 * (k + 1) + 3) s = runSequencer c (2 * k + 3) (Machine.afterSlot c s) := by
  have hleft := h.slots_left
  have hwidth := pulseWidth_le_total (short_le_total_of_wellFormed hc) (slotBit c s)
  refine runSequencer_slot_of_not_due hc h.running h.at_wait (by omega) ?_ ?_ (2 * k + 3)
  · rw [sequencerStep_wait_now hlat h.at_wait]
    exact h.not_due_at_rise hc
  · rw [afterSlot_now hlat]
    exact h.not_due hc (by rw [Nat.succ_mul]; omega)

/-- So are those of the marker. -/
theorem State.ExitsInTime.runSequencer_marker (hc : c.wellFormed = true) (hlat : c.lat = Latency.zero) (h : s.ExitsInTime c 0) :
    runSequencer c 3 s = finishSend (eofMark c s) := by
  have hlast : s.slot.toNat + 1 = c.nSlots := h.slots_left
  have hfits : (firstRise s).toNat + (0 * c.total + c.eofHold + c.total) < 2 ^ 64 := h.clock
  refine runSequencer_last_slot_of_not_due hc h.running h.at_wait hlast ?_ ?_ ?_
  · rw [sequencerStep_wait_now hlat h.at_wait]
    exact h.not_due_at_rise hc
  · rw [sequencerStep_hold_now hc hlat h.at_wait hlast]
    exact h.not_due hc (by rw [markerWidth]; omega)
  · rw [eofMark_eq hlat (show _ < _ by omega)]
    exact h.not_due hc (by omega)

/-- Without the pulses to come it exits in time too. -/
theorem State.ExitsInTime.setResets_nil (h : s.ExitsInTime c k) : (s.setResets []).ExitsInTime c k :=
  ⟨h.running, h.at_wait, h.slots_left, h.clock, rfl⟩

end

/-! ### The pulses to come do not matter -/

theorem enterSlot_setResets (c : Config) (r : List ResetPulse) (s : State) :
    enterSlot c (s.setResets r) = (enterSlot c s).setResets r := by
  simp only [enterSlot, State.setResets]
  split
  · split <;> rfl
  · rfl

theorem afterSlot_setResets (c : Config) (r : List ResetPulse) (s : State) :
    afterSlot c (s.setResets r) = (afterSlot c s).setResets r := by
  rw [afterSlot, enterSlot_setResets]
  rfl

theorem eofMark_setResets (c : Config) (r : List ResetPulse) (s : State) :
    eofMark c (s.setResets r) = (eofMark c s).setResets r := by
  simp only [eofMark, closeMarker, holdMarker, openMarker, openPulse_eq, sendBit_fields, firstRise, State.delay, State.setLine,
    State.setResets]

/-- A SEND that exits in time goes as if no pulse were to come. -/
theorem runSequencer_of_exitsInTime {c : Config} (hc : c.wellFormed = true) (hlat : c.lat = Latency.zero) (k : Nat) {s : State}
    (h : s.ExitsInTime c k) :
    runSequencer c (2 * k + 3) s = (runSequencer c (2 * k + 3) (s.setResets [])).setResets s.resets := by
  induction k generalizing s with
  | zero =>
    have hresets : (finishSend (eofMark c s)).resets = s.resets := (eofMark_surroundings c s).resets_eq
    rw [Nat.mul_zero, Nat.zero_add, h.runSequencer_marker hc hlat, h.setResets_nil.runSequencer_marker hc hlat, eofMark_setResets]
    exact (State.setResets_of_eq hresets []).symm
  | succ k ih =>
    rw [h.runSequencer_slot hc hlat, h.setResets_nil.runSequencer_slot hc hlat, ih (h.afterSlot hc hlat), afterSlot_setResets,
      (afterSlot_surroundings c s).resets_eq]

end Sys2Proof.Machine
end

section
/-! SEND, closed form: the row of its ordinary slots, the marker after it, and the whole between acceptance and exit (R177, R178), in
every configuration without latencies. -/

namespace Sys2Proof.Machine

/-! ### A row of slots and the marker after it -/

/-- What `n` slots of ordinary bits and the marker after them take to the exit (R178). -/
theorem frameDuration_eq {c : Config} {n : Nat} (hn : n + 1 = c.nSlots) : frameDuration c = n * c.total + markerWidth c := by
  rw [frameDuration, ← hn, markerWidth, Config.eofHold]
  ring

/-- And what they take to the deadline they leave (R178). -/
theorem framePeriod_eq {c : Config} {n : Nat} (hn : n + 1 = c.nSlots) :
    framePeriod c = n * c.total + (c.eofHold + c.total) := by
  rw [framePeriod, ← hn, Config.eofHold]
  ring

/-- A row of bits and the marker, from the line LOW: the slots from the first rising edge on and then the marker's pulse, the exit at its
falling edge, the deadline three slots after its rising edge (R75, R78, R176). -/
theorem eofMark_gappedBits {c : Config} (hlat : c.lat = Latency.zero) (hshort : c.short ≤ c.total) {bits : List Bool}
    (hbits : bits ≠ []) {s : State} (hline : s.line = false)
    (hclock : clockHolds (firstRise s) (bits.length * c.total + (c.eofHold + c.total))) :
    eofMark c (gappedBits c bits s) =
      { s with
        now := firstRise s + us (bits.length * c.total + markerWidth c)
        nextEdge := firstRise s + us (bits.length * c.total + (c.eofHold + c.total))
        log :=
          (bitEvents c (firstRise s) bits ++ pulseEvents (firstRise s + us (bits.length * c.total)) (markerWidth c)).reverse ++
            s.log } := by
  obtain ⟨v, vs, rfl⟩ := List.exists_cons_of_ne_nil hbits
  have hfits : (firstRise s).toNat + ((v :: vs).length * c.total + (c.eofHold + c.total)) < 2 ^ 64 := hclock
  have hwidth := pulseWidth_le_total hshort ((v :: vs).getLast (List.cons_ne_nil v vs))
  have hlength : (v :: vs).length * c.total = vs.length * c.total + c.total := Nat.succ_mul ..
  have hrow := sendBits_eq hlat hshort vs v hline (show _ < _ by omega)
  rw [← microGap_sendBits, microGap_of_no_latency hlat]
  have hrise : firstRise (sendBits c (v :: vs) s) = firstRise s + us ((v :: vs).length * c.total) := by
    rw [hrow]
    refine firstRise_of_in_time ?_
    rw [BitVec.le_def, add_us_toNat (by omega), add_us_toNat (by omega)]
    omega
  have hmarker : clockHolds (firstRise (sendBits c (v :: vs) s)) c.eofHold := by
    rw [clockHolds, hrise, add_us_toNat (by omega)]
    omega
  rw [eofMark_eq hlat hmarker, hrise, hrow, hline, logChange_rise]
  simp [pulseEvents, us_add, BitVec.add_assoc]

/-! ### The whole SEND -/

theorem acceptSend_exitsInTime {c : Config} {n : Nat} (hn : n + 1 = c.nSlots) {s : State}
    (hclock : clockHolds (firstRise s) (framePeriod c))
    (hdue : s.resetDue (firstRise s + us (frameDuration c)) = false) : (acceptSend s).ExitsInTime c n where
  running := rfl
  at_wait := rfl
  slots_left := by simpa [acceptSend] using hn
  clock := by rwa [framePeriod_eq hn, ← Nat.add_assoc] at hclock
  no_reset := by rwa [frameDuration_eq hn] at hdue

/-- A SEND that exits before the next reset goes as if none were to come (R198). -/
theorem sendFrame_of_not_due {c : Config} (hc : c.wellFormed = true) (hlat : c.lat = Latency.zero) {s : State}
    (hclock : clockHolds (firstRise s) (framePeriod c)) (hdue : s.resetDue (firstRise s + us (frameDuration c)) = false) :
    sendFrame c s = (sendFrame c (s.setResets [])).setResets s.resets := by
  obtain ⟨hlen, -⟩ := slots_of_wellFormed hc
  have hn := frameBits_length hlen s.frame
  have hsteps : subStepsOfSend c = 2 * (frameBits c s.frame).length + 3 := by rw [subStepsOfSend, ← hn]; omega
  rw [sendFrame, sendFrame, hsteps]
  exact runSequencer_of_exitsInTime hc hlat _ (acceptSend_exitsInTime hn hclock hdue)

/-- With the line LOW, the edges of a SEND's micro-program are those of the frame (R77, R178). -/
theorem runMicros_microProgram_eq {c : Config} (hc : c.wellFormed = true) (hlat : c.lat = Latency.zero) (f : Frame) {s : State}
    (hline : s.line = false) (hclock : clockHolds (firstRise s) (framePeriod c)) :
    runMicros c (microProgram c f) s =
      { s with
        now := firstRise s + us (frameDuration c)
        nextEdge := firstRise s + us (framePeriod c)
        log := (frameEvents c (firstRise s) f).reverse ++ s.log } := by
  obtain ⟨hlen, -⟩ := slots_of_wellFormed hc
  have hn := frameBits_length hlen f
  have hlast : c.nSlots - 1 = (frameBits c f).length := Nat.sub_eq_of_eq_add hn.symm
  rw [framePeriod_eq hn] at hclock ⊢
  have hbits : frameBits c f ≠ [] := List.cons_ne_nil true _
  rw [runMicros_microProgram, eofMark_gappedBits hlat (short_le_total_of_wellFormed hc) hbits hline hclock, frameDuration_eq hn,
    frameEvents, hlast]

/-- Settles O47: the SEND goes as if no pulse were to come, and then it is its micro-program between acceptance and exit. -/
theorem sendTransmitsTheFrameInEveryConfiguration : Obligations.SendTransmitsTheFrameInEveryConfiguration := by
  intro c s hc hlat hbusy hline hclock hdue
  have hrow := runMicros_microProgram_eq (s := acceptSend (s.setResets [])) hc hlat s.frame hline hclock
  have hfree : sendFrame c (s.setResets []) =
      finishSend ((runMicros c (microProgram c s.frame) (acceptSend (s.setResets []))).setSum
        (BitVec.ofNat 11 (byteSum s.frame.bytes))) :=
    sendIsItsMicroProgram c (s.setResets []) hc rfl
  rw [sendFrame_of_not_due hc hlat hclock hdue, hfree, hrow]
  cases s
  cases hbusy
  rfl

end Sys2Proof.Machine
end

section
/-! SEND on this hardware: its closed form, the edges it adds to the log, and a second one after it (R178 to R181, R219). -/

namespace Sys2Proof.Machine

/-- A completed SEND on this hardware, all fields at once (R178). Its fields are read through the lemmas
below, because the kernel is slow to compare two such states as a whole. -/
def sent (s : State) : State :=
  { s with
    now := firstRise s + us 188600
    nextEdge := firstRise s + us 190000
    slot := 0#7
    subStep := .wait
    sum := BitVec.ofNat 11 (byteSum s.frame.bytes)
    log :=
      busyEvent (firstRise s + us 188600) false :: (frameEvents Config.hardware (firstRise s) s.frame).reverse ++
        busyEvent s.now true :: s.log }

@[simp] theorem sent_frame (s : State) : (sent s).frame = s.frame := by rw [sent]
@[simp] theorem sent_line (s : State) : (sent s).line = s.line := by rw [sent]
@[simp] theorem sent_busy (s : State) : (sent s).busy = s.busy := by rw [sent]
@[simp] theorem sent_rst (s : State) : (sent s).rst = s.rst := by rw [sent]
@[simp] theorem sent_resets (s : State) : (sent s).resets = s.resets := by rw [sent]
@[simp] theorem sent_now (s : State) : (sent s).now = firstRise s + us 188600 := by rw [sent]
@[simp] theorem sent_nextEdge (s : State) : (sent s).nextEdge = firstRise s + us 190000 := by rw [sent]
theorem sent_log (s : State) :
    (sent s).log =
      busyEvent (firstRise s + us 188600) false :: (frameEvents Config.hardware (firstRise s) s.frame).reverse ++
        busyEvent s.now true :: s.log := by rw [sent]

/-- An idle, released block with the line LOW completes a SEND that no reset and no wrap of the clock overtakes (R177, R178). -/
theorem exec_send {s : State} (hbusy : s.busy = false) (hrst : s.rst = false) (hline : s.line = false)
    (hclock : clockHolds (firstRise s) 190000) (hdue : s.resetDue (firstRise s + us 188600) = false) :
    exec .send s = .next (sent s) := by
  have hexec : exec .send s = .next (sendFrame Config.hardware s) := exec_command rfl hbusy hrst
  rw [hexec, sendTransmitsTheFrameInEveryConfiguration Config.hardware s Config.hardware_wellFormed Config.hardware_lat hbusy hline
    hclock hdue, frameDuration_hardware, framePeriod_hardware, sent]

/-- Settles O46: the closed form of `exec_send`, which leaves the Frame alone. -/
theorem sendTransmitsTheFrame : Obligations.SendTransmitsTheFrame := by
  intro s hbusy hrst hline hclock hdue
  exact ⟨sent s, exec_send hbusy hrst hline hclock hdue, rfl, State.readByte_congr (sent_frame s)⟩

/-! ### The edges of a frame -/

/-- Whether an event is an edge of the line to the level `b`. -/
def isEdge : Bool → PortEvent → Bool
  | true, e => e.port == .line && e.level
  | false, e => e.port == .line && !e.level

/-- A pulse has one edge of each kind. -/
theorem countP_pulseEvents (b : Bool) (start : Time) (width : Nat) : (pulseEvents start width).countP (isEdge b) = 1 := by
  cases b <;> rfl

/-- A row of slots has one edge of each kind in each slot. -/
theorem countP_bitEvents (c : Config) (b : Bool) (start : Time) (bits : List Bool) :
    (bitEvents c start bits).countP (isEdge b) = bits.length := by
  induction bits generalizing start with
  | nil => rfl
  | cons v vs ih => rw [bitEvents, List.countP_append, countP_pulseEvents, ih, List.length_cons, Nat.add_comm]

/-- A frame has as many edges of each kind as slots (R179). -/
theorem countP_frameEvents {c : Config} (hlen : c.length = 8) (b : Bool) (start : Time) (f : Frame) :
    (frameEvents c start f).countP (isEdge b) = c.nSlots := by
  rw [frameEvents, List.countP_append, countP_bitEvents, countP_pulseEvents, frameBits_length hlen]

/-- The events a SEND adds to the log, the latest first: the edges of the frame between the two changes of `busy` (R177). -/
def sendEvents (s : State) : List PortEvent :=
  busyEvent (firstRise s + us 188600) false :: (frameEvents Config.hardware (firstRise s) s.frame).reverse ++ [busyEvent s.now true]

theorem sent_log_eq_append (s : State) : (sent s).log = sendEvents s ++ s.log := by
  simp [sent_log, sendEvents]

/-- The changes of `busy` are no edges of the line, so that the edges a SEND adds are those of the frame (R179). -/
theorem length_filter_sendEvents (b : Bool) (s : State) : ((sendEvents s).filter (isEdge b)).length = 93 := by
  have hbusy (t : Time) (level : Bool) : isEdge b (busyEvent t level) = false := by cases b <;> rfl
  rw [← List.countP_eq_length_filter, sendEvents, List.cons_append, List.countP_cons, List.countP_append, List.countP_reverse,
    countP_frameEvents rfl, List.countP_singleton, hbusy, hbusy]
  rfl

/-- Settles O55: the frame has 93 slots, each with one edge of each kind. -/
theorem everySendHasNinetyThreeSlots : Obligations.EverySendHasNinetyThreeSlots :=
  fun s hbusy hrst hline hclock hdue =>
    ⟨frameBits_length rfl s.frame, _, sendEvents s, exec_send hbusy hrst hline hclock hdue, sent_log_eq_append s,
      length_filter_sendEvents true s, length_filter_sendEvents false s⟩

/-! ### Two frames in a row -/

theorem pulseEvents_shift (start shift : Time) (width : Nat) :
    pulseEvents (start + shift) width = (pulseEvents start width).map fun e => { e with time := e.time + shift } := by
  simp [pulseEvents, add_right_comm]

/-- The edges of a row of slots depend on its start only by being relative to it (R180). -/
theorem bitEvents_shift (c : Config) (start shift : Time) (bits : List Bool) :
    bitEvents c (start + shift) bits = (bitEvents c start bits).map fun e => { e with time := e.time + shift } := by
  induction bits generalizing start with
  | nil => rfl
  | cons v vs ih =>
    have hnext : start + shift + us c.total = start + us c.total + shift := add_right_comm ..
    rw [bitEvents, bitEvents, hnext, ih, pulseEvents_shift, List.map_append]

theorem frameEvents_shift (c : Config) (start shift : Time) (f : Frame) :
    frameEvents c (start + shift) f = (frameEvents c start f).map fun e => { e with time := e.time + shift } := by
  rw [frameEvents, frameEvents, bitEvents_shift, add_right_comm, pulseEvents_shift, List.map_append]

/-- A SEND accepted `g` after some state with the line LOW, no reset to come: its events come on top of that state's log. -/
theorem exec_send_delay {g : Nat} {t : State} (hbusy : t.busy = false) (hrst : t.rst = false) (hline : t.line = false)
    (hresets : t.resets = []) {start : Time} (hstart : firstRise (t.delay g) = start) (hclock : clockHolds start 190000) :
    ∃ u, exec .send (t.delay g) = .next u ∧
      u.log =
        busyEvent (start + us 188600) false :: (frameEvents Config.hardware start t.frame).reverse ++
          busyEvent (t.now + us g) true :: t.log ∧
      u.nextEdge = start + us 190000 := by
  subst hstart
  have hsecond : exec .send (t.delay g) = .next (sent (t.delay g)) := exec_send hbusy hrst hline hclock (resetDue_of_nil hresets _)
  exact ⟨_, hsecond, sent_log _, sent_nextEdge _⟩

/-- INIT, and a SEND accepted `g` after it: INIT leaves the line LOW, logs nothing, and clears the deadline, so that the SEND rises at
its acceptance (R110, R151). -/
theorem exec_init_send_delay {g : Nat} {t : State} (hbusy : t.busy = false) (hrst : t.rst = false) (hline : t.line = false)
    (hresets : t.resets = []) (hclock : clockHolds (t.now + us g) 190000) :
    ∃ u v, exec .init t = .next u ∧ exec .send (u.delay g) = .next v ∧
      v.log =
        busyEvent (t.now + us g + us 188600) false :: (frameEvents Config.hardware (t.now + us g) t.frame).reverse ++
          busyEvent (t.now + us g) true :: t.log := by
  have hinit : exec .init t = .next (initBlock Config.hardware t) := exec_command rfl hbusy hrst
  have hstart : firstRise ((initBlock Config.hardware t).delay g) = t.now + us g := firstRise_of_no_deadline rfl
  have hlog : (initBlock Config.hardware t).log = t.log := by
    rw [initBlock_hardware_eq, hline, logChange_same]
  obtain ⟨v, hsend, hv, -⟩ := exec_send_delay (t := initBlock Config.hardware t) hbusy hrst rfl hresets hstart hclock
  rw [hlog] at hv
  exact ⟨_, v, hinit, hsend, hv⟩

/-- An operation entered `g` after the exit of a SEND rises at the deadline the SEND left, or at its entry where that is past (R181). -/
theorem firstRise_sent_delay {g : Nat} {s : State} (hclock : clockHolds (firstRise s) (2 * 190000 + g)) :
    firstRise ((sent s).delay g) =
      if g ≤ 1400 then firstRise s + us 190000 else firstRise s + us (188600 + g) := by
  have hfits : (firstRise s).toNat + (2 * 190000 + g) < 2 ^ 64 := hclock
  have hnow : ((sent s).delay g).now = firstRise s + us (188600 + g) := by
    rw [State.delay_now, sent_now, us_add, BitVec.add_assoc]
  have hedge : ((sent s).delay g).nextEdge = firstRise s + us 190000 := by rw [State.delay_nextEdge, sent_nextEdge]
  have hnow_nat := add_us_toNat (t := firstRise s) (n := 188600 + g) (by omega)
  have hedge_nat := add_us_toNat (t := firstRise s) (n := 190000) (by omega)
  split
  · next hin => rw [← hedge]; exact firstRise_of_in_time (by rw [hnow, hedge, BitVec.le_def]; omega)
  · next hlate => rw [← hnow]; exact firstRise_of_late (by rw [hnow, hedge, BitVec.le_def]; omega)

/-- Settles O52: both SENDs complete, and the second one rises where `firstRise_sent_delay` says. -/
theorem backToBackFramesArePhaseLocked : Obligations.BackToBackFramesArePhaseLocked := by
  refine ⟨?_, frameEvents_shift⟩
  intro g s hbusy hrst hline hresets hclock start
  have hfits : (firstRise s).toNat + (2 * 190000 + g) < 2 ^ 64 := hclock
  have hfirst : exec .send s = .next (sent s) :=
    exec_send hbusy hrst hline (show _ < _ by omega) (resetDue_of_nil hresets _)
  have hlater : clockHolds start 190000 := by
    rw [clockHolds]
    simp only [start]
    split <;> rw [add_us_toNat (by omega)] <;> omega
  obtain ⟨u, hsecond, hlog, hedge⟩ := exec_send_delay ((sent_busy s).trans hbusy) ((sent_rst s).trans hrst)
    ((sent_line s).trans hline) ((sent_resets s).trans hresets) (firstRise_sent_delay hclock) hlater
  rw [sent_frame] at hlog
  exact ⟨_, u, hfirst, hsecond, hlog, hedge⟩

/-- Settles O53: after SEND and INIT the second SEND rises at its acceptance, by `exec_init_send_delay`. -/
theorem initBetweenFramesCutsTheMarkerShort : Obligations.InitBetweenFramesCutsTheMarkerShort := by
  intro g s hbusy hrst hline hresets hclock
  have hfits : (firstRise s).toNat + (2 * 190000 + g) < 2 ^ 64 := hclock
  have hfirst : exec .send s = .next (sent s) :=
    exec_send hbusy hrst hline (show _ < _ by omega) (resetDue_of_nil hresets _)
  have hlater : clockHolds ((sent s).now + us g) 190000 := by
    rw [sent_now, clockHolds, BitVec.add_assoc, ← us_add, add_us_toNat (by omega)]
    omega
  obtain ⟨u, v, hinit, hsecond, hlog⟩ := exec_init_send_delay ((sent_busy s).trans hbusy) ((sent_rst s).trans hrst)
    ((sent_line s).trans hline) ((sent_resets s).trans hresets) hlater
  rw [sent_frame, BitVec.add_assoc, ← us_add] at hlog
  exact ⟨_, u, v, hfirst, hinit, hsecond, hlog⟩

end Sys2Proof.Machine
end

section
/-! Nothing faults, and what is not accepted has no effect: which next state exec answers, and that a step answers one too (R190, R198,
R210). -/

namespace Sys2Proof.Machine

/-! ### A next state -/

/-- Every operation answers a next state (R190). -/
theorem exec_answers (i : Instr) (s : State) : ∃ t, exec i s = .next t :=
  (exec_cases i s).elim (fun h => ⟨_, h⟩) fun h => ⟨_, h⟩

/-- So does every presented word, a reserved one included (R86, R87). -/
theorem runWord_answers (cw : CommandWord) (s : State) : ∃ t, runWord cw s = .next t := by
  rcases runWord_cases cw s with ⟨i, -, -, hrun⟩ | ⟨-, hrun⟩
  · exact hrun ▸ exec_answers i s
  · exact ⟨s, hrun⟩

/-- Settles O10, by the cases of a step (`step_cases`): only a label that decodes to nothing has no next state. -/
theorem everyOperationAnswersANextState : Obligations.EveryOperationAnswersANextState := by
  refine ⟨exec_answers, fun s => ?_⟩
  rcases step_cases s with ⟨-, hstep⟩ | ⟨-, -, hstep⟩ | ⟨-, -, hstep⟩ | ⟨-, -, -, -, -, hstep⟩ |
      ⟨-, -, -, p, rest, -, -, hstep⟩ | ⟨-, -, b, rest, hbench, -, hstep⟩
  · exact .inl ⟨_, hstep⟩
  · exact .inl ⟨_, hstep⟩
  · exact .inl ⟨_, hstep⟩
  · exact .inl ⟨_, hstep⟩
  · exact .inl (hstep ▸ runWord_answers p.word _)
  · rcases runLabel_cases b.label (s.enterBenched b rest) with ⟨i, -, -, hrun⟩ | ⟨⟨e, hdecode⟩, hrun⟩
    · exact .inl ((hstep.trans hrun) ▸ exec_answers i _)
    · exact .inr ⟨b, rest, hbench, by simp [hdecode], hstep.trans hrun⟩

/-! ### No effect -/

/-- A command has its effect exactly if it is accepted (R198; log 16). -/
theorem exec_eq_acceptCommand {i : Instr} (hi : i.issuedBy .host = true) (s : State) :
    exec i s = acceptCommand s (effect i) := by
  cases i with
  | init => rfl
  | setaddr addr => rfl
  | settype kind => rfl
  | setdata temp humidity voltage => rfl
  | send => rfl
  | sendbit v => cases hi
  | sendbyte b => cases hi
  | eofmark => cases hi

/-- A micro-operation has its effect exactly if it is entered (R210; log 16). -/
theorem exec_eq_enterMicro {i : Instr} (hi : i.issuedBy .sequencer = true) (s : State) :
    exec i s = enterMicro s (effect i) := by
  cases i with
  | init => cases hi
  | setaddr addr => cases hi
  | settype kind => cases hi
  | setdata temp humidity voltage => cases hi
  | send => cases hi
  | sendbit v => rfl
  | sendbyte b => rfl
  | eofmark => rfl

/-- Every operation is a command or a micro-operation (R81, R93). -/
theorem issuedBy_host_or_sequencer (i : Instr) : i.issuedBy .host = true ∨ i.issuedBy .sequencer = true := by
  cases i <;> simp [Instr.issuedBy]

/-- Settles O11: such a command is not accepted, and under `rst` no micro-operation is entered. -/
theorem operationNotAcceptedHasNoEffect : Obligations.OperationNotAcceptedHasNoEffect := by
  refine ⟨fun i s hi hbusy => ?_, fun i s hrst => ?_⟩
  · rw [exec_eq_acceptCommand hi]
    exact acceptCommand_of_not (by simp [State.accepts, hbusy]) _
  · rcases issuedBy_host_or_sequencer i with hi | hi
    · rw [exec_eq_acceptCommand hi]
      exact acceptCommand_of_not (by simp [State.accepts, hrst]) _
    · rw [exec_eq_enterMicro hi]
      exact enterMicro_of_held hrst _

end Sys2Proof.Machine
end

section
/-! Reset: what it leaves, and that it wins over whatever comes next (R198, R210, R211). -/

namespace Sys2Proof.Machine

/-- Where `rst` is forced next and not yet asserted, the step asserts it, whatever was to come (R198, R211). -/
theorem step_of_resetNext {s : State} (hrst : s.rst = false) (hnext : s.resetNext) :
    step s = .next (assertReset Config.hardware s) := by
  rcases hnext with hheld | ⟨hbusy, hdue⟩ | ⟨hbusy, hbench, p, rest, hhost, hdue⟩ | ⟨hbusy, hbench, hhost, hpulse⟩ |
      ⟨hbusy, b, rest, hbench, hdue⟩
  · simp [hrst] at hheld
  · simp [step, stepBusy, hrst, hbusy, hdue]
  · simp [step_of_idle hrst hbusy hbench, stepHost, hhost, hdue]
  · simp [step_of_idle hrst hbusy hbench, stepHost, hhost, hpulse]
  · simp [step, stepIdle, hrst, hbusy, hbench, hdue]

/-- The state in which `rst` becomes asserted, all fields at once (R210, R211). -/
theorem assertReset_eq {s : State} {p : ResetPulse} {later : List ResetPulse} (hresets : s.resets = p :: later) :
    assertReset Config.hardware s =
      { s with
        frame := Frame.reset, nextEdge := 0#64, line := false, busy := false, errRange := false, slot := 0#7, subStep := .wait
        sum := Config.sumReset, now := laterOf s.now p.assertAt, rst := true
        log := logChange .busy s.busy false (laterOf s.now p.assertAt)
          (logChange .line s.line false (laterOf s.now p.assertAt) s.log) } := by
  cases s
  cases hresets
  rfl

/-- Settles O16: the step asserts the next pulse, which forces the reset state. -/
theorem resetAbandonsWhateverRuns : Obligations.ResetAbandonsWhateverRuns :=
  fun _ _ _ hrst hresets hnext => (step_of_resetNext hrst hnext).trans (congrArg _ (assertReset_eq hresets))

end Sys2Proof.Machine
end

section
/-! The flag `ERR_RANGE` and SEND: the sequencer neither reads nor writes it, in any configuration (R195). -/

namespace Sys2Proof.Machine

/-- The flag `ERR_RANGE`, replaced. -/
def State.withErrRange (e : Bool) (s : State) : State := { s with errRange := e }

theorem enterSlot_withErrRange (c : Config) (e : Bool) (s : State) :
    enterSlot c (s.withErrRange e) = (enterSlot c s).withErrRange e := by
  simp only [enterSlot, State.withErrRange]
  split
  · split <;> rfl
  · rfl

theorem completeSlot_withErrRange (c : Config) (e : Bool) (s : State) :
    completeSlot c (s.withErrRange e) = (completeSlot c s).withErrRange e := by
  by_cases hnext : s.slot.toNat + 1 < c.nSlots
  · rw [completeSlot_of_lt hnext, completeSlot_of_lt (s := s.withErrRange e) hnext]
    rfl
  · have hlast := Nat.le_of_not_lt hnext
    rw [completeSlot_of_last hlast, completeSlot_of_last (s := s.withErrRange e) hlast]
    rfl

/-- A sub-step of the sequencer neither reads nor writes the flag (R195). -/
theorem sequencerStep_withErrRange (c : Config) (e : Bool) (s : State) :
    sequencerStep c (s.withErrRange e) = (sequencerStep c s).withErrRange e := by
  cases hsub : s.subStep with
  | wait =>
    rw [sequencerStep_of_wait c hsub, sequencerStep_of_wait c (s := s.withErrRange e) hsub, enterSlot_withErrRange]
    rfl
  | pulse =>
    rw [sequencerStep_of_pulse c hsub, sequencerStep_of_pulse c (s := s.withErrRange e) hsub, ← completeSlot_withErrRange]
    rfl
  | eofHold =>
    rw [sequencerStep_of_eofHold c hsub, sequencerStep_of_eofHold c (s := s.withErrRange e) hsub]
    rfl
  | eofPulse =>
    rw [sequencerStep_of_eofPulse c hsub, sequencerStep_of_eofPulse c (s := s.withErrRange e) hsub,
      ← completeSlot_withErrRange]
    rfl

/-- Nor does a reset's being due depend on it, so that the sequencer runs as far with the flag changed. -/
theorem runSequencer_withErrRange (c : Config) (e : Bool) (n : Nat) (s : State) :
    runSequencer c n (s.withErrRange e) = (runSequencer c n s).withErrRange e := by
  induction n generalizing s with
  | zero => rfl
  | succ n ih =>
    have hgoes : ((s.withErrRange e).busy && !(s.withErrRange e).resetDue (sequencerStep c (s.withErrRange e)).now) =
        (s.busy && !s.resetDue (sequencerStep c s).now) := by
      rw [sequencerStep_withErrRange]
      rfl
    simp only [runSequencer, hgoes]
    split
    · rw [sequencerStep_withErrRange, ih]
    · rfl

/-- Settles O35: the acceptance leaves the flag alone too, and the rest is `runSequencer_withErrRange`. -/
theorem sendTakesNoNoticeOfTheFailureFlag : Obligations.SendTakesNoNoticeOfTheFailureFlag :=
  fun c e s => runSequencer_withErrRange c e (subStepsOfSend c) (acceptSend s)

end Sys2Proof.Machine
end

section
/-! A SEND that a reset cuts (R211): the edges of a frame before a time, and slot by slot where the sequencer stops and what it has logged
by then (log 5, log 6), in every configuration without latencies. -/

namespace Sys2Proof.Machine

/-! ### The edges before a time -/

/-- The edges of a row of slots and the marker after it, the first rising at `start` (R75, R178). -/
def edgesFrom (c : Config) (start : Time) (bits : List Bool) : List PortEvent :=
  bitEvents c start bits ++ pulseEvents (start + us (bits.length * c.total)) (markerWidth c)

theorem edgesFrom_nil (c : Config) (start : Time) : edgesFrom c start [] = pulseEvents start (markerWidth c) := by
  simp [edgesFrom, bitEvents]

theorem edgesFrom_cons (c : Config) (start : Time) (v : Bool) (vs : List Bool) :
    edgesFrom c start (v :: vs) = pulseEvents start (pulseWidth c v) ++ edgesFrom c (start + us c.total) vs := by
  have hmarker : start + us ((v :: vs).length * c.total) = start + us c.total + us (vs.length * c.total) := by
    rw [List.length_cons, Nat.succ_mul, Nat.add_comm, us_add, BitVec.add_assoc]
  rw [edgesFrom, edgesFrom, hmarker, bitEvents, List.append_assoc]

/-- The edges of a frame are those of its bits and the marker. -/
theorem edgesFrom_frameBits {c : Config} (hlen : c.length = 8) (start : Time) (f : Frame) :
    edgesFrom c start (frameBits c f) = frameEvents c start f := by
  rw [edgesFrom, frameEvents, ← frameBits_length hlen f, Nat.add_sub_cancel]

theorem le_time_of_mem_pulseEvents {start : Time} {width : Nat} (hclock : clockHolds start width) {e : PortEvent}
    (he : e ∈ pulseEvents start width) : start ≤ e.time := by
  have hfall := add_us_toNat hclock
  simp only [pulseEvents, List.mem_cons, List.not_mem_nil, or_false] at he
  rcases he with rfl | rfl
  · exact BitVec.le_refl start
  · change start ≤ start + us width
    rw [BitVec.le_def]
    omega

/-- While the clock does not wrap, no edge of a row comes before its first rising edge (R150). -/
theorem le_time_of_mem_edgesFrom {c : Config} (hshort : c.short ≤ c.total) {bits : List Bool} {start : Time}
    (hclock : clockHolds start (bits.length * c.total + markerWidth c)) {e : PortEvent} (he : e ∈ edgesFrom c start bits) :
    start ≤ e.time := by
  have hfits : start.toNat + (bits.length * c.total + markerWidth c) < 2 ^ 64 := hclock
  induction bits generalizing start with
  | nil =>
    rw [edgesFrom_nil] at he
    exact le_time_of_mem_pulseEvents (show _ < _ by omega) he
  | cons v vs ih =>
    rw [List.length_cons, Nat.succ_mul] at hfits
    have hwidth := pulseWidth_le_total hshort v
    have hnext := add_us_toNat (t := start) (n := c.total) (by omega)
    have hlater : (start + us c.total).toNat + (vs.length * c.total + markerWidth c) < 2 ^ 64 := by omega
    rw [edgesFrom_cons, List.mem_append] at he
    rcases he with hfirst | hrest
    · exact le_time_of_mem_pulseEvents (show _ < _ by omega) hfirst
    · have hle := ih hlater hrest hlater
      rw [BitVec.le_def] at hle ⊢
      omega

/-- The edges that come before the time `r`. -/
def edgesBefore (r : Time) (edges : List PortEvent) : List PortEvent := edges.filter fun e => decide (e.time < r)

theorem edgesBefore_append (r : Time) (es fs : List PortEvent) :
    edgesBefore r (es ++ fs) = edgesBefore r es ++ edgesBefore r fs := List.filter_append ..

/-- None of a row's edges comes before a time its first rising edge is not before. -/
theorem edgesBefore_edgesFrom_of_le {c : Config} (hshort : c.short ≤ c.total) {bits : List Bool} {r start : Time}
    (hclock : clockHolds start (bits.length * c.total + markerWidth c)) (hr : r ≤ start) :
    edgesBefore r (edgesFrom c start bits) = [] := by
  refine List.filter_eq_nil_iff.2 fun e he => ?_
  have hle := le_time_of_mem_edgesFrom hshort hclock he
  simp only [BitVec.le_def, decide_eq_true_eq, BitVec.lt_def] at hle hr ⊢
  omega

/-- Within a pulse, its rising edge is the one before. -/
theorem edgesBefore_pulseEvents_of_within {r start : Time} {width : Nat} (hrise : start < r) (hfall : r ≤ start + us width) :
    edgesBefore r (pulseEvents start width) = [{ time := start, port := .line, level := true }] := by
  have hnot : ¬ start + us width < r := by
    rw [BitVec.le_def] at hfall
    rw [BitVec.lt_def]
    omega
  simp [edgesBefore, pulseEvents, hrise, hnot]

/-- After a pulse, both. -/
theorem edgesBefore_pulseEvents_of_after {r start : Time} {width : Nat} (hrise : start < r) (hfall : start + us width < r) :
    edgesBefore r (pulseEvents start width) = pulseEvents start width := by
  simp [edgesBefore, pulseEvents, hrise, hfall]

/-! ### The sub-steps' edges without latencies -/

/-- The first sub-step of a slot logs its rising edge (R145). -/
theorem sequencerStep_wait_log {c : Config} (hlat : c.lat = Latency.zero) {s : State} (hwait : s.subStep = .wait)
    (hline : s.line = false) :
    (sequencerStep c s).log = { time := firstRise s, port := .line, level := true } :: s.log := by
  obtain ⟨x, henter⟩ := enterSlot_eq_setSum c s
  rw [sequencerStep_of_wait c hwait, henter]
  simp [openPulse_eq, firstRise, hlat, Latency.zero, hline]

/-- An ordinary slot logs the two edges of its pulse (R145). -/
theorem afterSlot_log {c : Config} (hlat : c.lat = Latency.zero) {s : State} (hline : s.line = false) :
    (afterSlot c s).log = (pulseEvents (firstRise s) (pulseWidth c (slotBit c s))).reverse ++ s.log := by
  obtain ⟨x, heq⟩ := afterSlot_eq c s
  rw [heq, gappedBit, microGap_of_no_latency hlat, sendBit_of_line_low hlat _ hline]
  rfl

theorem afterSlot_line (c : Config) (s : State) : (afterSlot c s).line = false := by
  obtain ⟨x, heq⟩ := afterSlot_eq c s
  rw [heq]
  exact sendBit_line c (slotBit c s) s

/-! ### Where the sequencer stops -/

/-- The sequencer stops before a sub-step that a reset overtakes (R211). -/
theorem runSequencer_of_due (c : Config) (n : Nat) {s : State} (hdue : s.resetDue (sequencerStep c s).now = true) :
    runSequencer c n s = s := by
  cases n <;> simp [runSequencer, hdue]

/-- A SEND that stands before a sub-step which is not over before `r`, with a log `log`. -/
structure State.CutAt (c : Config) (r : Time) (log : List PortEvent) (t : State) : Prop where
  running : t.busy = true
  before : t.now < r
  overtaken : r ≤ (sequencerStep c t).now
  logged : t.log = log

/-- A SEND about to enter a slot, with the line LOW and the ordinary bits `bits` left, whose next reset is asserted at `r`, before its
exit and before the top of the clock (R150, R211). -/
structure State.CutAhead (c : Config) (r : Time) (bits : List Bool) (s : State) : Prop where
  at_slot : (s.setResets []).AtSlot c
  bits_left : (frameBits c s.frame).drop s.slot.toNat = bits
  line_low : s.line = false
  clock : clockHolds (firstRise s) (bits.length * c.total + c.eofHold + c.total)
  due_iff : ∀ t, s.resetDue t = decide (r ≤ t)
  before : s.now < r
  within : r ≤ firstRise s + us (bits.length * c.total + markerWidth c)

section
variable {c : Config} {r : Time} {bits : List Bool} {v : Bool} {s : State}

theorem State.CutAhead.at_wait (h : s.CutAhead c r bits) : s.subStep = .wait := h.at_slot.at_wait

theorem State.CutAhead.running (h : s.CutAhead c r bits) : s.busy = true := h.at_slot.running

/-- As many slots are left as bits, and the marker's. -/
theorem State.CutAhead.slots_left (hlen : c.length = 8) (h : s.CutAhead c r bits) :
    s.slot.toNat + bits.length + 1 = c.nSlots := by
  have hrange : s.slot.toNat < c.nSlots := h.at_slot.in_range
  have hlength := frameBits_length hlen s.frame
  have hleft := congrArg List.length h.bits_left
  rw [List.length_drop] at hleft
  omega

/-- The next of the bits left is the slot's. -/
theorem State.CutAhead.slotBit_eq (hlen : c.length = 8) (h : s.CutAhead c r (v :: bits)) : slotBit c s = v := by
  have hleft := h.slots_left hlen
  rw [List.length_cons] at hleft
  have hbit : (frameBits c s.frame)[s.slot.toNat]? = some (slotBit c s) :=
    frameBits_slot hlen h.at_slot.partial_sum (show s.slot.toNat + 1 < c.nSlots by omega)
  rw [← List.head?_drop, h.bits_left] at hbit
  exact (Option.some.inj hbit).symm

/-- The edges to come do not wrap. -/
theorem State.CutAhead.clock_edges (hshort : c.short ≤ c.total) (h : s.CutAhead c r bits) :
    clockHolds (firstRise s) (bits.length * c.total + markerWidth c) := by
  have hfits : (firstRise s).toNat + (bits.length * c.total + c.eofHold + c.total) < 2 ^ 64 := h.clock
  rw [clockHolds, markerWidth]
  omega

/-- The sequencer stops before a sub-step that `r` overtakes. -/
theorem State.CutAhead.runSequencer_of_overtaken (h : s.CutAhead c r bits) {t : State} (hresets : t.resets = s.resets)
    (hover : r ≤ (sequencerStep c t).now) (n : Nat) : runSequencer c n t = t :=
  runSequencer_of_due c n (by rw [resetDue_congr hresets, h.due_iff]; exact decide_eq_true hover)

theorem State.CutAhead.not_due (h : s.CutAhead c r bits) {t : Time} (ht : t < r) : s.resetDue t = false := by
  rw [h.due_iff, decide_eq_false_iff_not, BitVec.not_le]
  exact ht

/-- And takes one that is over before. -/
theorem State.CutAhead.runSequencer_of_lt (h : s.CutAhead c r bits) {t : State} (hresets : t.resets = s.resets)
    (hbusy : t.busy = true) (hlt : (sequencerStep c t).now < r) (n : Nat) :
    runSequencer c (n + 1) t = runSequencer c n (sequencerStep c t) :=
  runSequencer_succ c n t hbusy ((resetDue_congr hresets _).trans (h.not_due hlt))

/-- A reset before the slot's rising edge: no edge is made. -/
theorem State.CutAhead.cut_before_rise (hlat : c.lat = Latency.zero) (hshort : c.short ≤ c.total) (h : s.CutAhead c r bits)
    (hrise : r ≤ firstRise s) (n : Nat) :
    (runSequencer c n s).CutAt c r ((edgesBefore r (edgesFrom c (firstRise s) bits)).reverse ++ s.log) := by
  have hover : r ≤ (sequencerStep c s).now := by rwa [sequencerStep_wait_now hlat h.at_wait]
  rw [h.runSequencer_of_overtaken rfl hover, edgesBefore_edgesFrom_of_le hshort (h.clock_edges hshort) hrise]
  exact ⟨h.running, h.before, hover, rfl⟩

/-- A reset in the pulse of an ordinary slot: its rising edge is made. -/
theorem State.CutAhead.cut_in_pulse (hc : c.wellFormed = true) (hlat : c.lat = Latency.zero) (h : s.CutAhead c r (v :: bits))
    (hrise : firstRise s < r) (hfall : r ≤ firstRise s + us (pulseWidth c v)) (n : Nat) :
    (runSequencer c (n + 1) s).CutAt c r ((edgesBefore r (edgesFrom c (firstRise s) (v :: bits))).reverse ++ s.log) := by
  have hshort := short_le_total_of_wellFormed hc
  obtain ⟨hlen, -⟩ := slots_of_wellFormed hc
  have hleft := h.slots_left hlen
  have hclock : (firstRise s).toNat + ((bits.length + 1) * c.total + markerWidth c) < 2 ^ 64 := h.clock_edges hshort
  rw [Nat.succ_mul] at hclock
  have hwidth := pulseWidth_le_total hshort v
  have hnow := sequencerStep_wait_now hlat h.at_wait
  have hend : (sequencerStep c (sequencerStep c s)).now = firstRise s + us (pulseWidth c v) := by
    rw [ordinary_slot_eq hc h.at_wait (by rw [List.length_cons] at hleft; omega), ← h.slotBit_eq hlen]
    exact afterSlot_now hlat s
  have hover : r ≤ (sequencerStep c (sequencerStep c s)).now := hend ▸ hfall
  have hnext := add_us_toNat (t := firstRise s) (n := c.total) (by omega)
  have hrest : edgesBefore r (edgesFrom c (firstRise s + us c.total) bits) = [] := by
    refine edgesBefore_edgesFrom_of_le hshort (show _ < _ by omega) ?_
    rw [BitVec.le_def, add_us_toNat (by omega)] at hfall
    rw [BitVec.le_def]
    omega
  obtain ⟨hbusy, -, -⟩ := sequencerStep_wait_position c h.at_wait
  rw [h.runSequencer_of_lt rfl h.running (hnow ▸ hrise),
    h.runSequencer_of_overtaken (sequencerStep_surroundings c s).resets_eq hover, edgesFrom_cons, edgesBefore_append,
    edgesBefore_pulseEvents_of_within hrise hfall, hrest]
  exact ⟨hbusy.trans h.running, hnow ▸ hrise, hover, sequencerStep_wait_log hlat h.at_wait h.line_low⟩

/-- A reset in the marker, in its hold or in its final bit: the marker's rising edge is made (R176). -/
theorem State.CutAhead.cut_in_marker (hc : c.wellFormed = true) (hlat : c.lat = Latency.zero) (h : s.CutAhead c r [])
    (hrise : firstRise s < r) :
    (runSequencer c 3 s).CutAt c r ((edgesBefore r (edgesFrom c (firstRise s) [])).reverse ++ s.log) := by
  obtain ⟨hlen, -⟩ := slots_of_wellFormed hc
  have hlast : s.slot.toNat + 1 = c.nSlots := h.slots_left hlen
  have hfits : (firstRise s).toNat + (0 * c.total + c.eofHold + c.total) < 2 ^ 64 := h.clock
  have hexit : r ≤ firstRise s + us (markerWidth c) := by simpa using h.within
  have hrise_now := sequencerStep_wait_now hlat h.at_wait
  have hhold_now := sequencerStep_hold_now hc hlat h.at_wait hlast
  have hresets := (sequencerStep_surroundings c s).resets_eq
  have hlog := sequencerStep_wait_log hlat h.at_wait h.line_low
  obtain ⟨hbusy, -, -⟩ := sequencerStep_wait_position c h.at_wait
  have hhold := sequencerStep_last_slot_subStep hc h.at_wait hlast
  rw [h.runSequencer_of_lt rfl h.running (hrise_now ▸ hrise), edgesFrom_nil, edgesBefore_pulseEvents_of_within hrise hexit]
  by_cases hinHold : r ≤ firstRise s + us c.eofHold
  · have hover : r ≤ (sequencerStep c (sequencerStep c s)).now := hhold_now ▸ hinHold
    rw [h.runSequencer_of_overtaken hresets hover]
    exact ⟨hbusy.trans h.running, hrise_now ▸ hrise, hover, hlog⟩
  · have hheld : (sequencerStep c (sequencerStep c s)).now < r := by
      rw [hhold_now]
      exact BitVec.not_le.1 hinHold
    have hover : r ≤ (sequencerStep c (sequencerStep c (sequencerStep c s))).now := by
      rw [marker_slot_eq hc h.at_wait hlast, eofMark_eq hlat (show _ < _ by omega)]
      exact hexit
    have hresets' := (sequencerStep_surroundings c (sequencerStep c s)).resets_eq.trans hresets
    obtain ⟨hbusy', -, -⟩ := sequencerStep_eofHold_position c hhold
    rw [h.runSequencer_of_lt hresets (hbusy.trans h.running) hheld, h.runSequencer_of_overtaken hresets' hover]
    refine ⟨(hbusy'.trans hbusy).trans h.running, hheld, hover, ?_⟩
    rw [sequencerStep_of_eofHold c hhold]
    exact hlog

/-- The slot after an ordinary one rises `TOTAL` after it (R75). -/
theorem State.CutAhead.firstRise_afterSlot (hc : c.wellFormed = true) (hlat : c.lat = Latency.zero)
    (h : s.CutAhead c r (v :: bits)) : firstRise (afterSlot c s) = firstRise s + us c.total := by
  have hfits : (firstRise s).toNat + ((bits.length + 1) * c.total + c.eofHold + c.total) < 2 ^ 64 := h.clock
  exact Machine.firstRise_afterSlot hlat (short_le_total_of_wellFormed hc) (show _ < _ by omega)

/-- Both sub-steps of an ordinary slot before the reset are taken. -/
theorem State.CutAhead.runSequencer_slot (hc : c.wellFormed = true) (hlat : c.lat = Latency.zero)
    (h : s.CutAhead c r (v :: bits)) (hrise : firstRise s < r) (hfall : firstRise s + us (pulseWidth c v) < r) (n : Nat) :
    runSequencer c (n + 2) s = runSequencer c n (afterSlot c s) := by
  obtain ⟨hlen, -⟩ := slots_of_wellFormed hc
  have hleft := h.slots_left hlen
  rw [List.length_cons] at hleft
  refine runSequencer_slot_of_not_due hc h.running h.at_wait (by omega) (h.not_due ?_) (h.not_due ?_) n
  · rwa [sequencerStep_wait_now hlat h.at_wait]
  · rwa [afterSlot_now hlat, h.slotBit_eq hlen]

/-- A reset after an ordinary slot is ahead in the next one. -/
theorem State.CutAhead.afterSlot (hc : c.wellFormed = true) (hlat : c.lat = Latency.zero) (h : s.CutAhead c r (v :: bits))
    (hfall : firstRise s + us (pulseWidth c v) < r) : (afterSlot c s).CutAhead c r bits := by
  obtain ⟨hlen, hslots⟩ := slots_of_wellFormed hc
  have hleft := h.slots_left hlen
  rw [List.length_cons] at hleft
  have hslot : s.slot.toNat + 1 < c.nSlots := by omega
  have hsame := afterSlot_surroundings c s
  have hnext : (Machine.afterSlot c s).slot.toNat = s.slot.toNat + 1 := slot_add_one_toNat hslots hslot
  have hfits : (firstRise s).toNat + ((bits.length + 1) * c.total + c.eofHold + c.total) < 2 ^ 64 := h.clock
  rw [Nat.succ_mul] at hfits
  have hone : (firstRise s).toNat + c.total < 2 ^ 64 := by omega
  have hrise := h.firstRise_afterSlot hc hlat
  refine ⟨?_, ?_, afterSlot_line c s, ?_, fun t => (resetDue_congr hsame.resets_eq t).trans (h.due_iff t), ?_, ?_⟩
  · rw [← afterSlot_setResets]
    exact h.at_slot.afterSlot hlen hslots hslot
  · rw [hsame.frame_eq, hnext, ← List.tail_drop, h.bits_left, List.tail_cons]
  · rw [clockHolds, hrise, add_us_toNat hone]
    omega
  · rwa [afterSlot_now hlat, h.slotBit_eq hlen]
  · have hexit : firstRise s + us c.total + us (bits.length * c.total + markerWidth c) =
        firstRise s + us ((v :: bits).length * c.total + markerWidth c) := by
      rw [BitVec.add_assoc, ← us_add, List.length_cons]
      congr 2
      ring
    rw [hrise, hexit]
    exact h.within

end

/-- From the entry of a slot on, a SEND with a reset ahead stops at it, and has logged the edges before it (R211). -/
theorem State.CutAhead.cutAt {c : Config} (hc : c.wellFormed = true) (hlat : c.lat = Latency.zero) {r : Time} (bits : List Bool)
    {s : State} (h : s.CutAhead c r bits) :
    (runSequencer c (2 * bits.length + 3) s).CutAt c r
      ((edgesBefore r (edgesFrom c (firstRise s) bits)).reverse ++ s.log) := by
  have hshort := short_le_total_of_wellFormed hc
  induction bits generalizing s with
  | nil =>
    by_cases hrise : r ≤ firstRise s
    · exact h.cut_before_rise hlat hshort hrise _
    · exact h.cut_in_marker hc hlat (BitVec.not_le.1 hrise)
  | cons v bits ih =>
    by_cases hrise : r ≤ firstRise s
    · exact h.cut_before_rise hlat hshort hrise _
    · rw [BitVec.not_le] at hrise
      by_cases hfall : r ≤ firstRise s + us (pulseWidth c v)
      · exact h.cut_in_pulse hc hlat hrise hfall _
      · rw [BitVec.not_le] at hfall
        obtain ⟨hlen, -⟩ := slots_of_wellFormed hc
        have hcut := ih (h.afterSlot hc hlat hfall)
        rw [h.firstRise_afterSlot hc hlat, afterSlot_log hlat h.line_low, h.slotBit_eq hlen] at hcut
        have hslot := h.runSequencer_slot hc hlat hrise hfall (2 * bits.length + 3)
        rw [edgesFrom_cons, edgesBefore_append, edgesBefore_pulseEvents_of_after hrise hfall, List.reverse_append,
          List.append_assoc, List.length_cons]
        exact hslot ▸ hcut

/-! ### The whole SEND, and the reset after it -/

/-- A SEND just accepted, with a reset ahead. -/
theorem acceptSend_cutAhead {c : Config} (hlen : c.length = 8) {s : State} {p : ResetPulse} {later : List ResetPulse}
    (hline : s.line = false) (hclock : clockHolds (firstRise s) (framePeriod c)) (hresets : s.resets = p :: later)
    (hbefore : s.now < p.assertAt) (hwithin : p.assertAt ≤ firstRise s + us (frameDuration c)) :
    (acceptSend s).CutAhead c p.assertAt (frameBits c s.frame) where
  at_slot := acceptSend_atSlot c (s := s.setResets []) rfl
  bits_left := rfl
  line_low := hline
  clock := by rwa [framePeriod_eq (frameBits_length hlen s.frame), ← Nat.add_assoc] at hclock
  due_iff := resetDue_cons (s := acceptSend s) hresets
  before := hbefore
  within := by rwa [frameDuration_eq (frameBits_length hlen s.frame)] at hwithin

/-- The SEND stops with exactly the edges before the reset (R211). -/
theorem sendFrame_cutAt {c : Config} (hc : c.wellFormed = true) (hlat : c.lat = Latency.zero) {s : State} {p : ResetPulse}
    {later : List ResetPulse} (hbusy : s.busy = false) (hline : s.line = false)
    (hclock : clockHolds (firstRise s) (framePeriod c)) (hresets : s.resets = p :: later) (hbefore : s.now < p.assertAt)
    (hwithin : p.assertAt ≤ firstRise s + us (frameDuration c)) :
    (sendFrame c s).CutAt c p.assertAt
      ((edgesBefore p.assertAt (frameEvents c (firstRise s) s.frame)).reverse ++ busyEvent s.now true :: s.log) := by
  obtain ⟨hlen, -⟩ := slots_of_wellFormed hc
  have hsteps : subStepsOfSend c = 2 * (frameBits c s.frame).length + 3 := by
    rw [subStepsOfSend, ← frameBits_length hlen s.frame]
    omega
  have hlog : (acceptSend s).log = busyEvent s.now true :: s.log := by
    simp [acceptSend, hbusy, logChange, busyEvent]
  have hcut := (acceptSend_cutAhead hlen hline hclock hresets hbefore hwithin).cutAt hc hlat
  rw [hlog, edgesFrom_frameBits hlen, ← hsteps] at hcut
  exact hcut

/-- The step after a SEND that was cut asserts the reset at its time (R211). -/
theorem step_of_cutAt {log : List PortEvent} {t : State} {p : ResetPulse} {later : List ResetPulse}
    (h : t.CutAt Config.hardware p.assertAt log) (hrst : t.rst = false) (hresets : t.resets = p :: later) :
    step t = .next
      { t with
        frame := Frame.reset, nextEdge := 0#64, line := false, busy := false, errRange := false, slot := 0#7, subStep := .wait
        sum := Config.sumReset, now := p.assertAt, rst := true
        log := busyEvent p.assertAt false :: logChange .line t.line false p.assertAt t.log } := by
  have hdue : t.resetDue (sequencerStep Config.hardware t).now = true := by
    rw [resetDue_cons hresets]
    exact decide_eq_true h.overtaken
  have hnow : laterOf t.now p.assertAt = p.assertAt := laterOf_of_le (BitVec.le_of_lt h.before)
  have hbusyFalls (events : List PortEvent) :
      logChange .busy t.busy false p.assertAt events = busyEvent p.assertAt false :: events := by
    rw [h.running, logChange_fall]
    rfl
  rw [resetAbandonsWhateverRuns t p later hrst hresets (.inr (.inl ⟨h.running, hdue⟩)), hnow, hbusyFalls]

/-- Settles O54: the SEND stops where the reset overtakes it, and the next step is the reset. -/
theorem resetDuringASendCutsTheWaveform : Obligations.ResetDuringASendCutsTheWaveform := by
  intro s p later hbusy hrst hline hclock hresets hbefore hwithin
  have hexec : exec .send s = .next (sendFrame Config.hardware s) := exec_command rfl hbusy hrst
  have hcut := sendFrame_cutAt Config.hardware_wellFormed Config.hardware_lat hbusy hline hclock hresets hbefore hwithin
  have hsame := sendFrame_surroundings Config.hardware s
  exact ⟨_, _, hexec, hcut.running, hcut.logged,
    step_of_cutAt hcut (hsame.rst_eq.trans hrst) (hsame.resets_eq.trans hresets),
    rfl, rfl, rfl, rfl, rfl, rfl, rfl, rfl, rfl⟩

end Sys2Proof.Machine
end

section
/-! The release of reset: what a step does while `rst` is asserted, and the state it leaves when the pulse is over (R210). -/

namespace Sys2Proof.Machine

/-- While `rst` is asserted nothing comes before it (R198). -/
theorem step_of_held {s : State} (hrst : s.rst = true) : step s = .next (holdReset Config.hardware s) := if_pos hrst

/-- The state in which `rst` becomes released, all fields at once (R210). -/
theorem holdReset_eq {s : State} {p : ResetPulse} {later : List ResetPulse} (hresets : s.resets = p :: later) :
    holdReset Config.hardware s =
      { s with
        frame := Frame.reset, nextEdge := 0#64, line := false, busy := false, errRange := false, slot := 0#7, subStep := .wait
        sum := Config.sumReset, now := laterOf s.now p.releaseAt, rst := false, resets := later
        log := logChange .busy s.busy false (laterOf s.now p.releaseAt)
          (logChange .line s.line false (laterOf s.now p.releaseAt) s.log) } := by
  cases s
  cases hresets
  rfl

/-- Settles O17: the step releases the pulse, which leaves the reset state (`holdReset_eq`). -/
theorem releasedResetLeavesTheBlockIdle : Obligations.ReleasedResetLeavesTheBlockIdle :=
  fun _ _ _ hrst hresets =>
    ⟨_, (step_of_held hrst).trans (congrArg _ (holdReset_eq hresets)), rfl, rfl, rfl, rfl, rfl, rfl, rfl, rfl, rfl, rfl, rfl,
      rfl, rfl⟩

end Sys2Proof.Machine
end

section
/-! The HIGH time of a frame (R226): a logical 1 is 800 microseconds shorter than a logical 0, and of a frame's 92 ordinary slots eleven
carry a 1 whatever the Frame holds: the lead bit, the start bit and the nine stop bits. -/

namespace Sys2Proof.Machine

/-- The widths of a row of bits, by its length and its ones (R145). -/
theorem sum_pulseWidth_hardware (bits : List Bool) :
    (bits.map (pulseWidth Config.hardware)).sum + 800 * bits.count true = 1400 * bits.length := by
  induction bits with
  | nil => rfl
  | cons v vs ih => cases v <;> simp <;> omega

/-- How many logical ones a row of bytes sends, its stop bits left out (R226). -/
def onesOfBytes (bs : List Byte) : Nat := (bs.map fun b => ((wireBits b).take 8).count true).sum

theorem onesSent_eq (f : Frame) : onesSent f = onesOfBytes (f.bytes ++ [frameChecksum f]) := rfl

/-- The ninth bit of a byte is its stop bit, a 1 (R76). -/
theorem count_wireBits (b : Byte) : (wireBits b).count true = ((wireBits b).take 8).count true + 1 :=
  List.count_append (l₁ := (wireBits b).take 8) (l₂ := [true])

theorem count_flatMap_wireBits (bs : List Byte) : (bs.flatMap wireBits).count true = onesOfBytes bs + bs.length := by
  rw [List.count_flatMap, funext (f := List.count true ∘ wireBits) count_wireBits, List.sum_map_add]
  simp [onesOfBytes]

theorem onesOfBytes_le (bs : List Byte) : onesOfBytes bs ≤ 8 * bs.length := by
  have hbyte (b : Byte) : ((wireBits b).take 8).count true ≤ 8 := List.count_le_length
  induction bs with
  | nil => exact Nat.zero_le _
  | cons b bs ih =>
    have hcons : onesOfBytes (b :: bs) = ((wireBits b).take 8).count true + onesOfBytes bs := List.sum_cons
    have hb := hbyte b
    rw [hcons, List.length_cons]
    omega

/-- The ones of a frame are those of its data and the eleven that every frame sends (R77). -/
theorem count_frameBits (f : Frame) : (frameBits Config.hardware f).count true = onesSent f + 11 := by
  have hdata : f.bytes.flatMap wireBits ++ wireBits (frameChecksum f) = (f.bytes ++ [frameChecksum f]).flatMap wireBits := by
    simp
  have hlead : (true :: List.replicate Config.hardware.nsync false ++ [true]).count true = 2 := rfl
  rw [frameBits_eq, List.count_append, hlead, hdata, count_flatMap_wireBits, ← onesSent_eq, List.length_append,
    Frame.bytes_length, List.length_singleton]
  omega

/-- Settles O56: 92 slots with `onesSent f + 11` ones, and the marker. -/
theorem highTimeCountsTheOnes : Obligations.HighTimeCountsTheOnes := by
  intro f
  have hwidths := sum_pulseWidth_hardware (frameBits Config.hardware f)
  have hlength : (frameBits Config.hardware f).length + 1 = 93 := frameBits_length rfl f
  have hones := onesOfBytes_le (f.bytes ++ [frameChecksum f])
  rw [← onesSent_eq, List.length_append, Frame.bytes_length, List.length_singleton] at hones
  rw [count_frameBits] at hwidths
  rw [markerWidth_hardware]
  constructor <;> omega

end Sys2Proof.Machine
end
